-- ==== Sys2Proof/Word.lean ====
section
/-! DEFINITION. The words of the block: the plain bit-vector types every other file uses. -/

namespace Sys2Proof

/-- A byte of the local memory `MEM` (spec 10_state R44). -/
abbrev Byte := BitVec 8

/-- The value of an operand register, of `FIRDATA[k]` and of the 64-bit CSRs (spec 00_scope R7 `XLEN`). -/
abbrev Word64 := BitVec 64

/-- A command word (spec 00_scope R7 `CMD_BITS`, 30_encoding R90). -/
abbrev CmdWord := BitVec 32

/-- An IEEE-754 binary32 word (spec 00_scope R12). -/
abbrev FloatWord := BitVec 32

/-- The number of an operand register: 4 bits, and every value names a register (spec 30_encoding R95). -/
abbrev Reg := BitVec 4

/-- The number of a control and status register, `0x000` to `0xFFF` (spec 10_state R26). -/
abbrev CsrNum := BitVec 12

end Sys2Proof
end

