-- ==== Sys2Proof/Config.lean ====
section
/-! DEFINITION. The parameters of the block (spec 00_scope R7). -/

namespace Sys2Proof

/-- The parameters the spec leaves to the implementation, `MEM_SIZE` and `XPREC` (open: spec
92_eei_decisions D4, D26), and `A_MAX`, which is 4096 on this hardware and which a model may carry as a
field (spec 00_scope R7). No step changes them. -/
structure Config where
  /-- `MEM_SIZE`: the bytes of the local memory. -/
  memSize : Nat
  /-- `XPREC`: the scale of the estimator's output. -/
  xprec : Nat
  /-- `A_MAX`: the capacity of the anchor FIFO. -/
  aMax : Nat
deriving DecidableEq, Repr

/-- The ranges spec 00_scope R7 gives the parameters (and 92_eei_decisions D26 for `XPREC`). -/
abbrev Config.Valid (c : Config) : Prop :=
  (256 ≤ c.memSize ∧ c.memSize ≤ 2 ^ 32) ∧ (1 ≤ c.xprec ∧ c.xprec < 2 ^ 64) ∧
    (2 ≤ c.aMax ∧ c.aMax ≤ 4096)

/-- `A_MAX` of this hardware (spec 00_scope R7, 92_eei_decisions D23). -/
def Config.hardwareAMax : Nat := 4096

/-- The parameters of `State.reset`. DESIGN CHOICE, unsafe (log 1): the spec leaves `MEM_SIZE` and `XPREC`
open; these are the values its vectors use. Statements quantify over every `Config` instead. -/
def Config.platform : Config := ⟨256, 1, Config.hardwareAMax⟩

/-- `N_TAPS`: coefficients and data slots of the jitter filter (spec 00_scope R7). -/
def Config.nTaps : Nat := 33

/-- `F_SCALE`: the sum of the coefficients and divisor of the filter (spec 00_scope R7). -/
def Config.fScale : Nat := 1024

/-- The weight of each of the `N_BOX = 4` taps of the start-up filter (spec 00_scope R7). -/
def Config.boxWeight : Nat := 256

/-- `BLKID`: "AUJS" above the spec revision (spec 10_state R43). -/
def Config.blockId : Word64 := 0x41554A5300000001#64

/-- What a byte of `MEM` that nothing has written reads as. DESIGN CHOICE, unsafe (log 2): the spec gives
`MEM` no reset content (10_state R44); `State.resetWith` takes the content as an argument. -/
def Config.unlistedByte : Byte := 0#8

end Sys2Proof
end

