-- ==== Sys2Proof/Syntax.lean ====
section
/-! DEFINITION. The command set: one constructor of `Instr` per row of the opcode table (spec 30_encoding
R94). The field widths are those of the table, so a term of `Instr` cannot hold an operand no word spells. -/

namespace Sys2Proof

/-- The 36 commands (spec 30_encoding R94), operands in the order of the assembler syntax (R100). -/
inductive Instr where
  | nop
  | li (rd : Reg) (imm16 : BitVec 16)
  | lis (rd : Reg) (imm16 : BitVec 16)
  | csrr (rd : Reg) (csr : CsrNum)
  | bswap16 (rd ra : Reg)
  | bswap32 (rd ra : Reg)
  | fb3 (rd ra : Reg)
  | fb4 (rd ra : Reg)
  | fxw (rd ra : Reg)
  | fxf (rd ra : Reg)
  | clip8 (ra rb rc : Reg)
  | clip16le (ra rb rc : Reg)
  | clip24le (ra rb rc : Reg)
  | clip32le (ra rb rc : Reg)
  | clip16be (ra rb rc : Reg)
  | clip24be (ra rb rc : Reg)
  | clip32be (ra rb rc : Reg)
  | tof8 (ra rb rc : Reg)
  | tof16le (ra rb rc : Reg)
  | tof24le (ra rb rc : Reg)
  | tof32le (ra rb rc : Reg)
  | tof16be (ra rb rc : Reg)
  | tof24be (ra rb rc : Reg)
  | tof32be (ra rb rc : Reg)
  | firrst
  | firpush (rd ra : Reg)
  | firnom (ra rb : Reg)
  | tsinit
  | tstamp (rd ra : Reg)
  | anclr
  | ancadd (ra rb : Reg)
  | ancnt (rd : Reg)
  | ancf (rd : Reg)
  | anct (rd : Reg)
  | estrate (rd : Reg)
  | estf2t (rd ra : Reg)
deriving DecidableEq, Repr

end Sys2Proof
end

