-- ==== Sys2Proof/WellFormed.lean ====
section
/-! DEFINITION. Which command words are well formed. Every term of `Instr` is well formed, since its fields
have the widths of the opcode table; what can be ill formed is a command WORD (spec 30_encoding R98), and a
set of parameters (`Config.Valid`). `legalWord` is read from the masks and matches of the opcode table
alone, so that the decoder, which reads the fields, can be held against it. -/

namespace Sys2Proof

/-- One row of the opcode table (spec 30_encoding R94, R102). -/
structure OpcodeRow where
  mnemonic : String
  mask : CmdWord
  mtch : CmdWord
deriving DecidableEq, Repr

/-- The word spells the command of the row: `(w AND mask) = match` (spec 30_encoding R93). -/
def OpcodeRow.accepts (r : OpcodeRow) (w : CmdWord) : Bool := w &&& r.mask == r.mtch

/-- The opcode table, in the order of spec 30_encoding R94. -/
def opcodeTable : List OpcodeRow :=
  [⟨"NOP", 0xFFFFFFFF#32, 0x00000000#32⟩,
   ⟨"LI", 0xFF0F0000#32, 0x01000000#32⟩,
   ⟨"LIS", 0xFF0F0000#32, 0x02000000#32⟩,
   ⟨"CSRR", 0xFF0FF000#32, 0x03000000#32⟩,
   ⟨"BSWAP16", 0xFF00FFFF#32, 0x10000000#32⟩,
   ⟨"BSWAP32", 0xFF00FFFF#32, 0x11000000#32⟩,
   ⟨"FB3", 0xFF00FFFF#32, 0x12000000#32⟩,
   ⟨"FB4", 0xFF00FFFF#32, 0x13000000#32⟩,
   ⟨"FXW", 0xFF00FFFF#32, 0x14000000#32⟩,
   ⟨"FXF", 0xFF00FFFF#32, 0x15000000#32⟩,
   ⟨"CLIP8", 0xFFF000FF#32, 0x20000000#32⟩,
   ⟨"CLIP16LE", 0xFFF000FF#32, 0x20000001#32⟩] ++
  [⟨"CLIP24LE", 0xFFF000FF#32, 0x20000002#32⟩,
   ⟨"CLIP32LE", 0xFFF000FF#32, 0x20000003#32⟩,
   ⟨"CLIP16BE", 0xFFF000FF#32, 0x20000005#32⟩,
   ⟨"CLIP24BE", 0xFFF000FF#32, 0x20000006#32⟩,
   ⟨"CLIP32BE", 0xFFF000FF#32, 0x20000007#32⟩,
   ⟨"TOF8", 0xFFF000FF#32, 0x21000000#32⟩,
   ⟨"TOF16LE", 0xFFF000FF#32, 0x21000001#32⟩,
   ⟨"TOF24LE", 0xFFF000FF#32, 0x21000002#32⟩,
   ⟨"TOF32LE", 0xFFF000FF#32, 0x21000003#32⟩,
   ⟨"TOF16BE", 0xFFF000FF#32, 0x21000005#32⟩,
   ⟨"TOF24BE", 0xFFF000FF#32, 0x21000006#32⟩,
   ⟨"TOF32BE", 0xFFF000FF#32, 0x21000007#32⟩] ++
  [⟨"FIRRST", 0xFFFFFFFF#32, 0x30000000#32⟩,
   ⟨"FIRPUSH", 0xFF00FFFF#32, 0x31000000#32⟩,
   ⟨"FIRNOM", 0xFFF00FFF#32, 0x32000000#32⟩,
   ⟨"TSINIT", 0xFFFFFFFF#32, 0x33000000#32⟩,
   ⟨"TSTAMP", 0xFF00FFFF#32, 0x34000000#32⟩,
   ⟨"ANCLR", 0xFFFFFFFF#32, 0x40000000#32⟩,
   ⟨"ANCADD", 0xFFF00FFF#32, 0x41000000#32⟩,
   ⟨"ANCNT", 0xFF0FFFFF#32, 0x42000000#32⟩,
   ⟨"ANCF", 0xFF0FFFFF#32, 0x43000000#32⟩,
   ⟨"ANCT", 0xFF0FFFFF#32, 0x44000000#32⟩,
   ⟨"ESTRATE", 0xFF0FFFFF#32, 0x45000000#32⟩,
   ⟨"ESTF2T", 0xFF00FFFF#32, 0x46000000#32⟩]

/-- The word matches a row of the opcode table; every other word is illegal (spec 30_encoding R98). -/
def legalWord (w : CmdWord) : Bool := opcodeTable.any fun r => r.accepts w

end Sys2Proof
end

