-- ==== Sys2Proof/Decode.lean ====
section
/-! DEFINITION. Decoding a command word by its fields, and encoding a command (spec 30_encoding R91 to R98).
Decoding needs no state (R93) and is total: a word that spells no command is rejected by the name of what is
wrong with it, and executing it raises `IllegalCommand` (R98). -/

namespace Sys2Proof

/-- The fields of format R (spec 30_encoding R91). Format I is the same word read with `ra` zero and
`imm16 = rb ∥ rc ∥ fn` (R92). -/
structure Fields where
  op : BitVec 8
  rd : Reg
  ra : Reg
  rb : Reg
  rc : Reg
  fn : BitVec 8
deriving DecidableEq, Repr

/-- Why a word spells no command (spec 30_encoding R98). -/
inductive DecodeError where
  /-- The opcode is not in the table. -/
  | unknownOpcode (op : BitVec 8)
  /-- A must-be-zero field is not zero. -/
  | nonZeroField
  /-- A function code of `0x20` or `0x21` outside R97. -/
  | undefinedFn (fn : BitVec 8)
deriving DecidableEq, Repr

/-- The word made of the fields, opcode in bits 31:24 (spec 30_encoding R90, R91). -/
def Fields.toWord (f : Fields) : CmdWord := f.op ++ f.rd ++ f.ra ++ f.rb ++ f.rc ++ f.fn

/-- The fields of a word (spec 30_encoding R91). -/
def Fields.ofWord (w : CmdWord) : Fields where
  op := w.extractLsb' 24 8
  rd := w.extractLsb' 20 4
  ra := w.extractLsb' 16 4
  rb := w.extractLsb' 12 4
  rc := w.extractLsb' 8 4
  fn := w.extractLsb' 0 8

/-- `imm16 = w[15:0]` (spec 30_encoding R92, R96). -/
def Fields.imm16 (f : Fields) : BitVec 16 := f.rb ++ f.rc ++ f.fn

/-- The CSR number `imm16[11:0]` (spec 30_encoding R96). -/
def Fields.csr (f : Fields) : CsrNum := f.rc ++ f.fn

/-- The command, if every field it leaves unused is zero (spec 30_encoding R91). -/
def whenZero (unusedZero : Bool) (i : Instr) : Except DecodeError Instr :=
  if unusedZero then .ok i else .error .nonZeroField

/-- `CLIP*` by the function code (spec 30_encoding R94, R97). -/
def decodeClip (f : Fields) : Except DecodeError Instr :=
  match f.fn with
  | 0x00#8 => whenZero (f.rd == 0) (.clip8 f.ra f.rb f.rc)
  | 0x01#8 => whenZero (f.rd == 0) (.clip16le f.ra f.rb f.rc)
  | 0x02#8 => whenZero (f.rd == 0) (.clip24le f.ra f.rb f.rc)
  | 0x03#8 => whenZero (f.rd == 0) (.clip32le f.ra f.rb f.rc)
  | 0x05#8 => whenZero (f.rd == 0) (.clip16be f.ra f.rb f.rc)
  | 0x06#8 => whenZero (f.rd == 0) (.clip24be f.ra f.rb f.rc)
  | 0x07#8 => whenZero (f.rd == 0) (.clip32be f.ra f.rb f.rc)
  | fn => .error (.undefinedFn fn)

/-- `TOF*` by the function code (spec 30_encoding R94, R97). -/
def decodeTof (f : Fields) : Except DecodeError Instr :=
  match f.fn with
  | 0x00#8 => whenZero (f.rd == 0) (.tof8 f.ra f.rb f.rc)
  | 0x01#8 => whenZero (f.rd == 0) (.tof16le f.ra f.rb f.rc)
  | 0x02#8 => whenZero (f.rd == 0) (.tof24le f.ra f.rb f.rc)
  | 0x03#8 => whenZero (f.rd == 0) (.tof32le f.ra f.rb f.rc)
  | 0x05#8 => whenZero (f.rd == 0) (.tof16be f.ra f.rb f.rc)
  | 0x06#8 => whenZero (f.rd == 0) (.tof24be f.ra f.rb f.rc)
  | 0x07#8 => whenZero (f.rd == 0) (.tof32be f.ra f.rb f.rc)
  | fn => .error (.undefinedFn fn)

/-- The command the fields spell (spec 30_encoding R94). -/
def decodeFields (f : Fields) : Except DecodeError Instr :=
  match f.op with
  | 0x00#8 => whenZero (f.rd == 0 && f.ra == 0 && f.rb == 0 && f.rc == 0 && f.fn == 0) .nop
  | 0x01#8 => whenZero (f.ra == 0) (.li f.rd f.imm16)
  | 0x02#8 => whenZero (f.ra == 0) (.lis f.rd f.imm16)
  | 0x03#8 => whenZero (f.ra == 0 && f.rb == 0) (.csrr f.rd f.csr)
  | 0x10#8 => whenZero (f.rb == 0 && f.rc == 0 && f.fn == 0) (.bswap16 f.rd f.ra)
  | 0x11#8 => whenZero (f.rb == 0 && f.rc == 0 && f.fn == 0) (.bswap32 f.rd f.ra)
  | 0x12#8 => whenZero (f.rb == 0 && f.rc == 0 && f.fn == 0) (.fb3 f.rd f.ra)
  | 0x13#8 => whenZero (f.rb == 0 && f.rc == 0 && f.fn == 0) (.fb4 f.rd f.ra)
  | 0x14#8 => whenZero (f.rb == 0 && f.rc == 0 && f.fn == 0) (.fxw f.rd f.ra)
  | 0x15#8 => whenZero (f.rb == 0 && f.rc == 0 && f.fn == 0) (.fxf f.rd f.ra)
  | 0x20#8 => decodeClip f
  | 0x21#8 => decodeTof f
  | 0x30#8 => whenZero (f.rd == 0 && f.ra == 0 && f.rb == 0 && f.rc == 0 && f.fn == 0) .firrst
  | 0x31#8 => whenZero (f.rb == 0 && f.rc == 0 && f.fn == 0) (.firpush f.rd f.ra)
  | 0x32#8 => whenZero (f.rd == 0 && f.rc == 0 && f.fn == 0) (.firnom f.ra f.rb)
  | 0x33#8 => whenZero (f.rd == 0 && f.ra == 0 && f.rb == 0 && f.rc == 0 && f.fn == 0) .tsinit
  | 0x34#8 => whenZero (f.rb == 0 && f.rc == 0 && f.fn == 0) (.tstamp f.rd f.ra)
  | 0x40#8 => whenZero (f.rd == 0 && f.ra == 0 && f.rb == 0 && f.rc == 0 && f.fn == 0) .anclr
  | 0x41#8 => whenZero (f.rd == 0 && f.rc == 0 && f.fn == 0) (.ancadd f.ra f.rb)
  | 0x42#8 => whenZero (f.ra == 0 && f.rb == 0 && f.rc == 0 && f.fn == 0) (.ancnt f.rd)
  | 0x43#8 => whenZero (f.ra == 0 && f.rb == 0 && f.rc == 0 && f.fn == 0) (.ancf f.rd)
  | 0x44#8 => whenZero (f.ra == 0 && f.rb == 0 && f.rc == 0 && f.fn == 0) (.anct f.rd)
  | 0x45#8 => whenZero (f.ra == 0 && f.rb == 0 && f.rc == 0 && f.fn == 0) (.estrate f.rd)
  | 0x46#8 => whenZero (f.rb == 0 && f.rc == 0 && f.fn == 0) (.estf2t f.rd f.ra)
  | op => .error (.unknownOpcode op)

/-- The command a word spells, or why it spells none (spec 30_encoding R93, R98). -/
def decode (w : CmdWord) : Except DecodeError Instr := decodeFields (Fields.ofWord w)

/-- The fields of a command with an immediate (format I, spec 30_encoding R92). -/
def immFields (op : BitVec 8) (rd : Reg) (imm16 : BitVec 16) : Fields :=
  ⟨op, rd, 0, imm16.extractLsb' 12 4, imm16.extractLsb' 8 4, imm16.extractLsb' 0 8⟩

/-- The fields of a command: the row's opcode and function code, each used field, zero elsewhere
(spec 30_encoding R94, R102). -/
def encodeFields : Instr → Fields
  | .nop => ⟨0x00, 0, 0, 0, 0, 0⟩
  | .li rd imm16 => immFields 0x01 rd imm16
  | .lis rd imm16 => immFields 0x02 rd imm16
  | .csrr rd csr => ⟨0x03, rd, 0, 0, csr.extractLsb' 8 4, csr.extractLsb' 0 8⟩
  | .bswap16 rd ra => ⟨0x10, rd, ra, 0, 0, 0⟩
  | .bswap32 rd ra => ⟨0x11, rd, ra, 0, 0, 0⟩
  | .fb3 rd ra => ⟨0x12, rd, ra, 0, 0, 0⟩
  | .fb4 rd ra => ⟨0x13, rd, ra, 0, 0, 0⟩
  | .fxw rd ra => ⟨0x14, rd, ra, 0, 0, 0⟩
  | .fxf rd ra => ⟨0x15, rd, ra, 0, 0, 0⟩
  | .clip8 ra rb rc => ⟨0x20, 0, ra, rb, rc, 0x00⟩
  | .clip16le ra rb rc => ⟨0x20, 0, ra, rb, rc, 0x01⟩
  | .clip24le ra rb rc => ⟨0x20, 0, ra, rb, rc, 0x02⟩
  | .clip32le ra rb rc => ⟨0x20, 0, ra, rb, rc, 0x03⟩
  | .clip16be ra rb rc => ⟨0x20, 0, ra, rb, rc, 0x05⟩
  | .clip24be ra rb rc => ⟨0x20, 0, ra, rb, rc, 0x06⟩
  | .clip32be ra rb rc => ⟨0x20, 0, ra, rb, rc, 0x07⟩
  | .tof8 ra rb rc => ⟨0x21, 0, ra, rb, rc, 0x00⟩
  | .tof16le ra rb rc => ⟨0x21, 0, ra, rb, rc, 0x01⟩
  | .tof24le ra rb rc => ⟨0x21, 0, ra, rb, rc, 0x02⟩
  | .tof32le ra rb rc => ⟨0x21, 0, ra, rb, rc, 0x03⟩
  | .tof16be ra rb rc => ⟨0x21, 0, ra, rb, rc, 0x05⟩
  | .tof24be ra rb rc => ⟨0x21, 0, ra, rb, rc, 0x06⟩
  | .tof32be ra rb rc => ⟨0x21, 0, ra, rb, rc, 0x07⟩
  | .firrst => ⟨0x30, 0, 0, 0, 0, 0⟩
  | .firpush rd ra => ⟨0x31, rd, ra, 0, 0, 0⟩
  | .firnom ra rb => ⟨0x32, 0, ra, rb, 0, 0⟩
  | .tsinit => ⟨0x33, 0, 0, 0, 0, 0⟩
  | .tstamp rd ra => ⟨0x34, rd, ra, 0, 0, 0⟩
  | .anclr => ⟨0x40, 0, 0, 0, 0, 0⟩
  | .ancadd ra rb => ⟨0x41, 0, ra, rb, 0, 0⟩
  | .ancnt rd => ⟨0x42, rd, 0, 0, 0, 0⟩
  | .ancf rd => ⟨0x43, rd, 0, 0, 0, 0⟩
  | .anct rd => ⟨0x44, rd, 0, 0, 0, 0⟩
  | .estrate rd => ⟨0x45, rd, 0, 0, 0, 0⟩
  | .estf2t rd ra => ⟨0x46, rd, ra, 0, 0, 0⟩

/-- The command word of a command (spec 30_encoding R102). -/
def encode (i : Instr) : CmdWord := (encodeFields i).toWord

/-- The command word the host hands over as `nbits` bits of the number `w`; bits above are 0. -/
def tableWord (nbits w : Nat) : CmdWord := BitVec.ofNat 32 (w % 2 ^ nbits)

/-- The instruction the decoder reads from a word numbered as the opcode table numbers it. A command is one
32-bit word that the host presents whole (spec 30_encoding R90, 10_state R24), so no byte order arises. -/
def decodeTableWord (nbits w : Nat) : Option Instr := (decode (tableWord nbits w)).toOption

end Sys2Proof
end

