-- ==== Sys2Proof/Machine/State.lean ====
section
/-! DEFINITION. The state of the block (spec 10_state), what the host asks of it (spec 60_exceptions R270),
and the state after reset. All of it is plain data. -/

namespace Sys2Proof.Machine

/-- A recorded pairing of a USB frame number with a host time in nanoseconds (spec 43_rate_estimator R211). -/
structure Anchor where
  frame : Word64
  time : Word64
deriving DecidableEq, Repr

/-- The local memory `MEM` (spec 10_state R44): the bytes that differ from `Config.unlistedByte`, by strictly
rising address (`Memory.wf`). -/
abbrev Memory := List Host.Cell

/-- The host's seven transactions (spec 60_exceptions R270). -/
inductive Transaction where
  /-- `RESET`. -/
  | reset
  /-- `CMD(w)`: execute the command word. -/
  | cmd (w : CmdWord)
  /-- `REGWR(i, v)`. -/
  | regwr (i : Reg) (v : Word64)
  /-- `REGRD(i)`. -/
  | regrd (i : Reg)
  /-- `MEMWR(a, bs)`. -/
  | memwr (a : Nat) (bs : List Byte)
  /-- `MEMRD(a, n)`. -/
  | memrd (a n : Nat)
  /-- `CSRRD(c)`. -/
  | csrrd (c : CsrNum)
deriving DecidableEq, Repr

/-- The value a read transaction returned (spec 60_exceptions R270). -/
inductive Reply where
  | reg (v : Word64)
  | mem (bs : List Byte)
  | csr (v : Word64)
deriving DecidableEq, Repr

/-- The state of the block, and what a run of it reads and returns.
The parameters are in `cfg` because the host fixes the type of `step` (log 1); no step changes them. -/
structure State where
  /-- The parameters (spec 00_scope R7). -/
  cfg : Config
  /-- `d0` to `d15` (spec 10_state R21). -/
  regs : Vector Word64 16
  /-- `STATUS` (spec 10_state R27). -/
  status : BitVec 16
  /-- `FCMD` (spec 10_state R28). -/
  fcmd : CmdWord
  /-- `FIRCTL` (spec 10_state R29). -/
  firctl : BitVec 2
  /-- `FIRITER` (spec 10_state R30). -/
  firiter : BitVec 32
  /-- `FIRWP` (spec 10_state R31). -/
  firwp : BitVec 6
  /-- `FIRNOM` (spec 10_state R32). -/
  firnom : Word64
  /-- `TSRAW` (spec 10_state R33). -/
  tsraw : Word64
  /-- `TSFILT` (spec 10_state R34). -/
  tsfilt : Word64
  /-- `FIRDATA[0 .. 32]` (spec 10_state R35). -/
  firdata : Vector Word64 33
  /-- The anchors in the FIFO, oldest first: all that `ANCFR[]` and `ANCTM[]` hold, with `ANCN` as its
  length (spec 10_state R37, R41, R42; log 8). -/
  anchors : List Anchor
  /-- `ANCHEAD` (spec 10_state R38). -/
  anchead : BitVec 12
  /-- `SX` (spec 10_state R39). -/
  sx : BitVec 76
  /-- `SY` (spec 10_state R39). -/
  sy : BitVec 76
  /-- `SXX` (spec 10_state R40). -/
  sxx : BitVec 140
  /-- `SXY` (spec 10_state R40). -/
  sxy : BitVec 140
  /-- `MEM` (spec 10_state R44). -/
  mem : Memory
  /-- The host transactions not yet applied, oldest first: the model's own field (spec 10_state R24,
  70_reset_and_hazards R306; log 3). -/
  input : List Transaction
  /-- The values the read transactions returned, oldest first: the model's own field (spec
  70_reset_and_hazards R306; log 5). -/
  output : List Reply
deriving DecidableEq, Repr

/-- The reasons the machine could stop with a fault: none. Every command word in every state executes,
raises a cause of spec 60_exceptions R263 (taken as a next state, R262) or is discarded (spec
70_reset_and_hazards R307), so no constructor is needed; safe. -/
inductive Fault
deriving DecidableEq, Repr

/-- The reasons the machine could refuse. -/
inductive Refusal where
  /-- An instruction that has no meaning yet. No arm of `exec` raises it: all 36 commands are modelled; safe. -/
  | notModelled (mnemonic : String)
deriving DecidableEq, Repr

/-- The state after reset for given parameters and a given content of `MEM` (spec 10_state R46,
70_reset_and_hazards R300: "the reset state with `MEM` an arbitrary, fixed argument"). -/
def State.resetWith (cfg : Config) (mem : Memory) : State where
  cfg := cfg
  regs := Vector.replicate 16 0#64
  status := 0#16
  fcmd := 0#32
  firctl := 1#2
  firiter := 0#32
  firwp := 0#6
  firnom := 0#64
  tsraw := 0#64
  tsfilt := 0#64
  firdata := Vector.replicate 33 0#64
  anchors := []
  anchead := 0#12
  sx := 0#76
  sy := 0#76
  sxx := 0#140
  sxy := 0#140
  mem := mem
  input := []
  output := []

/-- The machine right after reset, with nothing pending and nothing listed in `MEM`. DESIGN CHOICE (log 1,
log 2): its parameters and its content of `MEM` are one instance of what the spec leaves open. -/
def State.reset : State := State.resetWith Config.platform []

end Sys2Proof.Machine
end

