-- ==== Sys2Proof/Machine/Flags.lean ====
section
/-! DEFINITION. The bits of `STATUS` and `FIRCTL`. The block has no condition codes: these are its only
flag-like state, and no command has a flag side effect (spec 10_state R25). -/

namespace Sys2Proof.Machine

/-- A `STATUS` word: `CAUSE` in bits 15:8, bits 7:1 zero, `FAULT` in bit 0 (spec 10_state R27). -/
def statusWord (cause : BitVec 8) (fault : Bool) : BitVec 16 := cause ++ 0#7 ++ BitVec.ofBool fault

/-- `STATUS.FAULT` (spec 10_state R27). -/
def State.faulted (s : State) : Bool := s.status.getLsbD 0

/-- `STATUS.CAUSE` (spec 10_state R27). -/
def State.cause (s : State) : BitVec 8 := s.status.extractLsb' 8 8

/-- A `FIRCTL` word: `NOMV` in bit 1, `INIT` in bit 0 (spec 10_state R29). -/
def firctlWord (nomv init : Bool) : BitVec 2 := BitVec.ofBool nomv ++ BitVec.ofBool init

/-- `FIRCTL.INIT` (spec 10_state R29). -/
def State.initArmed (s : State) : Bool := s.firctl.getLsbD 0

/-- `FIRCTL.NOMV` (spec 10_state R29). -/
def State.nomValid (s : State) : Bool := s.firctl.getLsbD 1

/-- `FIRCTL.INIT <- b`. -/
def State.setInit (s : State) (b : Bool) : State := { s with firctl := firctlWord s.nomValid b }

/-- `FIRCTL.NOMV <- b`. -/
def State.setNomv (s : State) (b : Bool) : State := { s with firctl := firctlWord b s.initArmed }

end Sys2Proof.Machine
end

