-- ==== Sys2Proof/Machine/Ops.lean ====
section
/-! DEFINITION. The named operations over registers and memory, the range and overlap checks, and the fault
mechanism: entering a fault and leaving the faulted state. -/

namespace Sys2Proof.Machine

/-- `d[i]` (spec 00_scope R10). -/
def State.reg (s : State) (i : Reg) : Word64 := s.regs[i.toNat]'i.isLt

/-- `d[i] <- v` (spec 00_scope R10). No register is hard-wired (spec 10_state R21). -/
def State.setReg (s : State) (i : Reg) (v : Word64) : State :=
  { s with regs := s.regs.set i.toNat v i.isLt }

/-- `MEM[a]` (spec 00_scope R10): an address that is not listed reads as `Config.unlistedByte`. -/
def Memory.read : Memory → Nat → Byte
  | [], _ => Config.unlistedByte
  | (k, v) :: rest, a => if a = k then v else Memory.read rest a

/-- `MEM[a] <- b`, keeping the canonical form: writing what an unlisted address reads as removes the entry. -/
def Memory.write : Memory → Nat → Byte → Memory
  | [], a, b => if b = Config.unlistedByte then [] else [(a, b)]
  | (k, v) :: rest, a, b =>
    if a < k then if b = Config.unlistedByte then (k, v) :: rest else (a, b) :: (k, v) :: rest
    else if a = k then if b = Config.unlistedByte then rest else (a, b) :: rest
    else (k, v) :: Memory.write rest a b

/-- `MemRead(a, n)` (spec 00_scope R10): the bytes at `a`, `a + 1`, ..., in that order. -/
def Memory.readBytes (m : Memory) (a : Nat) : Nat → List Byte
  | 0 => []
  | n + 1 => m.read a :: Memory.readBytes m (a + 1) n

/-- `MemWrite(a, n, bs)` with `n` the length of `bs` (spec 00_scope R10). -/
def Memory.writeBytes (m : Memory) (a : Nat) : List Byte → Memory
  | [] => m
  | b :: bs => Memory.writeBytes (m.write a b) (a + 1) bs

/-- The canonical form: addresses strictly rising, and no entry equal to what an unlisted address reads as. -/
abbrev Memory.wf (m : Memory) : Prop :=
  m.Pairwise (fun c d => c.1 < d.1) ∧ ∀ c ∈ m, c.2 ≠ Config.unlistedByte

/-- `MemWrite` on the state. -/
def State.storeBytes (s : State) (a : Nat) (bs : List Byte) : State :=
  { s with mem := s.mem.writeBytes a bs }

/-- The range check: the `len` bytes from `a` lie inside `MEM`, on unbounded integers (spec 20_memory R66). -/
def State.inMem (s : State) (a len : Nat) : Bool := decide (a + len ≤ s.cfg.memSize)

/-- The overlap check: `[a, a + la)` and `[b, b + lb)` share a byte (spec 20_memory R67). -/
def overlaps (a la b lb : Nat) : Bool := decide (0 < la ∧ 0 < lb ∧ a < b + lb ∧ b < a + la)

/-- The causes a command can raise (spec 60_exceptions R263). -/
inductive Cause where
  | illegalCommand
  | addrRange
  | overlap
  | invalidOperand
  | divideByZero
  | resultRange
  | rawRegression
  | notConfigured
  | estUnderdetermined
  | badCsr
deriving DecidableEq, Repr

/-- The code of a cause (spec 60_exceptions R263). -/
def causeCode : Cause → BitVec 8
  | .illegalCommand => 1
  | .addrRange => 2
  | .overlap => 3
  | .invalidOperand => 4
  | .divideByZero => 5
  | .resultRange => 6
  | .rawRegression => 7
  | .notConfigured => 8
  | .estUnderdetermined => 9
  | .badCsr => 10

/-- Fault entry (spec 60_exceptions R262): `STATUS.FAULT`, `STATUS.CAUSE` and `FCMD`, and nothing else. -/
def State.enterFault (s : State) (k : Cause) (w : CmdWord) : State :=
  { s with status := statusWord (causeCode k) true, fcmd := w }

/-- `raise k` in the command `w` (spec 00_scope R11): the state the command saw, with the fault recorded. -/
def raise (k : Cause) (w : CmdWord) (s : State) : Host.Outcome State Fault Refusal :=
  .next (s.enterFault k w)

/-- What a command's rule gives: the state it leaves, or the cause it raises in the command `w`. Nothing a
rule computed before its `raise` is kept (spec 60_exceptions R262). -/
def complete (w : CmdWord) (s : State) : Except Cause State → Host.Outcome State Fault Refusal
  | .ok t => .next t
  | .error k => raise k w s

/-- The return from the faulted state, and the host transaction `RESET`: every register at its reset value,
`MEM` kept (spec 60_exceptions R264, 70_reset_and_hazards R300). The parameters, the transactions still
pending and the values returned so far are no state of the block and stay (log 7). -/
def State.applyReset (s : State) : State :=
  { State.resetWith s.cfg s.mem with input := s.input, output := s.output }

end Sys2Proof.Machine
end

