-- ==== Sys2Proof/Machine/Operands.lean ====
section
/-! DEFINITION. Byte orders, sample formats and the operand forms of the conversion commands (spec 20_memory
R61 to R63, 30_encoding R97, 41_clip_convert R141). -/

namespace Sys2Proof.Machine

/-- `le(bs)`: the unsigned integer whose least significant byte is the first (spec 00_scope R10). -/
def leNat : List Byte → Nat
  | [] => 0
  | b :: bs => b.toNat + 256 * leNat bs

/-- `be(bs)`: the unsigned integer whose most significant byte is the first (spec 00_scope R10). -/
def beNat (bs : List Byte) : Nat := leNat bs.reverse

/-- `bytes_le(v, n)`: the `n` bytes of `v`, least significant first (spec 00_scope R10). -/
def bytesLE (v : Nat) : Nat → List Byte
  | 0 => []
  | n + 1 => BitVec.ofNat 8 v :: bytesLE (v / 256) n

/-- `bytes_be(v, n)`: the `n` bytes of `v`, most significant first (spec 00_scope R10). -/
def bytesBE (v n : Nat) : List Byte := (bytesLE v n).reverse

/-- The two byte orders of an integer sample: `fn[2]` (spec 30_encoding R97, 20_memory R62). -/
inductive ByteOrder where
  | le
  | be
deriving DecidableEq, Repr

/-- The four sample formats, the width code `fn[1:0]` (spec 30_encoding R97). -/
inductive Width where
  | w8
  | w16
  | w24
  | w32
deriving DecidableEq, Repr

/-- `B`: bytes of a sample (spec 41_clip_convert R141). -/
def widthBytes : Width → Nat
  | .w8 => 1
  | .w16 => 2
  | .w24 => 3
  | .w32 => 4

/-- `d`: the depth in bits (spec 41_clip_convert R141). -/
def widthDepth : Width → Nat
  | .w8 => 8
  | .w16 => 16
  | .w24 => 24
  | .w32 => 32

/-- The exponent of the scale `S`: 24-bit samples are scaled as if 32-bit (spec 41_clip_convert R141). -/
def widthScaleExp : Width → Nat
  | .w8 => 7
  | .w16 => 15
  | .w24 => 31
  | .w32 => 31

/-- The bytes of a `B`-byte sample word in address order (spec 20_memory R62). -/
def sampleBytes (bo : ByteOrder) (v n : Nat) : List Byte :=
  match bo with
  | .le => bytesLE v n
  | .be => bytesBE v n

/-- The sample word that bytes in address order spell (spec 20_memory R62). -/
def sampleNat (bo : ByteOrder) (bs : List Byte) : Nat :=
  match bo with
  | .le => leNat bs
  | .be => beNat bs

/-- The `n` samples of `size` bytes each from address `a`: sample `i` at `a + i * size` (spec 44_system R256). -/
def Memory.readSamples (m : Memory) (bo : ByteOrder) (size a : Nat) : Nat → List Nat
  | 0 => []
  | n + 1 => sampleNat bo (m.readBytes a size) :: Memory.readSamples m bo size (a + size) n

/-- The operands of a conversion command: destination address `d[ra]`, source address `d[rb]`, sample count
`d[rc]`, each a full 64-bit unsigned value (spec 41_clip_convert R143, R159, 10_state R23). -/
structure ConvOperands where
  dst : Nat
  src : Nat
  count : Nat
deriving DecidableEq, Repr

/-- The operands the fields `ra`, `rb`, `rc` name. -/
def State.convOperands (s : State) (ra rb rc : Reg) : ConvOperands :=
  ⟨(s.reg ra).toNat, (s.reg rb).toNat, (s.reg rc).toNat⟩

/-- The checks of a conversion that reads `srcSize` bytes and writes `dstSize` bytes a sample, in the order
they are made (spec 60_exceptions R266): source range, destination range, overlap. -/
def State.convCheck (s : State) (o : ConvOperands) (srcSize dstSize : Nat) : Option Cause :=
  if !s.inMem o.src (srcSize * o.count) then some .addrRange
  else if !s.inMem o.dst (dstSize * o.count) then some .addrRange
  else if overlaps o.src (srcSize * o.count) o.dst (dstSize * o.count) then some .overlap
  else none

end Sys2Proof.Machine
end

