-- ==== Sys2Proof/Machine/Float.lean ====
section
/-! DEFINITION. Binary32 words, and the two per-sample conversion functions (spec 00_scope R12, 41_clip_convert
R142, R158). Every finite binary32 value is a whole multiple of `2^-149`, so a value is held as that whole
number, and clip, scale and truncation are exact integer arithmetic (log 12). -/

namespace Sys2Proof.Machine

/-- What a binary32 word reads as (spec 00_scope R12). -/
inductive F32 where
  | nan
  | posInf
  | negInf
  /-- The value `units * 2^-149`. -/
  | finite (units : Int)
deriving DecidableEq, Repr

/-- The magnitude, in units of `2^-149`, of a binary32 word with exponent field `e` below 255 and fraction
field `f`: subnormal or zero for `e = 0`, else normal (spec 00_scope R12). -/
def f32Magnitude (e f : Nat) : Nat := if e = 0 then f else (2 ^ 23 + f) * 2 ^ (e - 1)

/-- `f32val(w)` (spec 00_scope R12): sign bit 31, exponent bits 30:23, fraction bits 22:0. -/
def f32val (w : FloatWord) : F32 :=
  let sign := w.getLsbD 31
  let e := (w.extractLsb' 23 8).toNat
  let f := (w.extractLsb' 0 23).toNat
  if e = 255 then if f ≠ 0 then .nan else if sign then .negInf else .posInf
  else .finite (if sign then -(f32Magnitude e f : Int) else f32Magnitude e f)

/-- The upper clip `U = (2^(d-1) - 1) / 2^(d-1)` in units of `2^-149` (spec 41_clip_convert R141). -/
def upperClip (wc : Width) : Int := (2 ^ (widthDepth wc - 1) - 1) * 2 ^ (149 - (widthDepth wc - 1))

/-- The lower clip `L = -1` in units of `2^-149` (spec 41_clip_convert R141). -/
def lowerClip : Int := -(2 ^ 149)

/-- The clipped value `c` in units of `2^-149`; none for a NaN (spec 41_clip_convert R142, R144). -/
def clipped (wc : Width) : F32 → Option Int
  | .nan => none
  | .posInf => some (upperClip wc)
  | .negInf => some lowerClip
  | .finite v =>
    some (if upperClip wc < v then upperClip wc else if v < lowerClip then lowerClip else v)

/-- `x = trunc(c * S)` for `c` in units of `2^-149` (spec 41_clip_convert R142, R146): toward zero. -/
def scaled (wc : Width) (c : Int) : Int := (c * 2 ^ widthScaleExp wc).tdiv (2 ^ 149)

/-- `tc_w(x)`: the `w`-bit two's-complement word of `x`, as an unsigned number (spec 00_scope R9). -/
def tcNat (w : Nat) (x : Int) : Nat := (x % 2 ^ w).toNat

/-- `clipconv(wc, w)`: the `d`-bit word of a sample, none for a NaN (spec 41_clip_convert R142). The 24-bit
word is the top three bytes of the 32-bit value (R145). -/
def clipconv (wc : Width) (w : FloatWord) : Option Nat :=
  match clipped wc (f32val w) with
  | none => none
  | some c =>
    match wc with
    | .w24 => some (tcNat 32 (scaled wc c) / 2 ^ 8)
    | _ => some (tcNat (widthDepth wc) (scaled wc c))

/-- `signed_w(v)`: the signed value of the `w`-bit word `v` (spec 00_scope R9). -/
def signedOf (w v : Nat) : Int := if v < 2 ^ (w - 1) then v else (v : Int) - 2 ^ w

/-- The binary32 word with the given sign whose magnitude bits 30:0 are `bits`. -/
def f32Word (neg : Bool) (bits : Nat) : FloatWord :=
  BitVec.ofNat 32 ((if neg then 2 ^ 31 else 0) + bits)

/-- `f32enc_exact` of `m / 2^k`, `0 < m < 2^24`: exponent field `log2 m - k + 127`, the leading bit of `m`
hidden, the rest the fraction (spec 00_scope R12). Zero gives the word 0, positive zero. -/
def f32encExact (neg : Bool) (m k : Nat) : FloatWord :=
  if m = 0 then 0#32
  else f32Word neg ((m.log2 + 127 - k) * 2 ^ 23 + (m * 2 ^ (23 - m.log2) - 2 ^ 23))

/-- `m / 2^j` rounded to the nearest whole number, a tie to the even one (spec 00_scope R12). -/
def roundEven (m j : Nat) : Nat :=
  let q := m / 2 ^ j
  let r := m % 2 ^ j
  if 2 * r < 2 ^ j then q else if 2 ^ j < 2 * r then q + 1 else q + q % 2

/-- `f32enc_rne` of `m / 2^k` for a result in the normal range (spec 00_scope R12): 24 significant bits are
kept, and a carry out of the fraction moves into the exponent field. -/
def f32encRne (neg : Bool) (m k : Nat) : FloatWord :=
  if m < 2 ^ 24 then f32encExact neg m k
  else
    f32Word neg ((m.log2 + 127 - k) * 2 ^ 23 + (roundEven m (m.log2 - 23) - 2 ^ 23))

/-- `tofloat(wc, u)`: the binary32 word of the `d`-bit sample word `u` (spec 41_clip_convert R158). -/
def tofloat (wc : Width) (u : Nat) : FloatWord :=
  let s := signedOf (widthDepth wc) u
  match wc with
  | .w32 => f32encRne (decide (s < 0)) s.natAbs (widthDepth wc - 1)
  | _ => f32encExact (decide (s < 0)) s.natAbs (widthDepth wc - 1)

end Sys2Proof.Machine
end

