-- ==== Sys2Proof/Machine/Convert.lean ====
section
/-! DEFINITION. Unit CONV: the forward and inverse command loops and the fourteen conversion commands (spec
41_clip_convert). -/

namespace Sys2Proof.Machine

/-- The bytes the forward loop writes for the source words, in index order; none if one of them is a NaN
(spec 41_clip_convert R143, R144). -/
def clipBytes (wc : Width) (bo : ByteOrder) : List Nat → Option (List Byte)
  | [] => some []
  | w :: ws =>
    match clipconv wc (BitVec.ofNat 32 w), clipBytes wc bo ws with
    | some x, some rest => some (sampleBytes bo x (widthBytes wc) ++ rest)
    | _, _ => none

/-- The bytes the inverse loop writes for the source words, in index order (spec 41_clip_convert R159). -/
def tofBytes (wc : Width) : List Nat → List Byte
  | [] => []
  | u :: us => bytesLE (tofloat wc u).toNat 4 ++ tofBytes wc us

/-- The forward command loop (spec 41_clip_convert R143). No register is written (R256 of 44_system). -/
def forward (wc : Width) (bo : ByteOrder) (ra rb rc : Reg) (s : State) : Except Cause State :=
  let o := s.convOperands ra rb rc
  match s.convCheck o 4 (widthBytes wc) with
  | some k => .error k
  | none =>
    match clipBytes wc bo (s.mem.readSamples .le 4 o.src o.count) with
    | none => .error .invalidOperand
    | some bs => .ok (s.storeBytes o.dst bs)

/-- The inverse command loop (spec 41_clip_convert R159). -/
def inverse (wc : Width) (bo : ByteOrder) (ra rb rc : Reg) (s : State) : Except Cause State :=
  let o := s.convOperands ra rb rc
  match s.convCheck o (widthBytes wc) 4 with
  | some k => .error k
  | none => .ok (s.storeBytes o.dst (tofBytes wc (s.mem.readSamples bo (widthBytes wc) o.src o.count)))

/-- `CLIP8 [ra], [rb], rc`: float32 to signed 8-bit (spec 41_clip_convert R150). -/
def execClip8 (ra rb rc : Reg) (s : State) : Host.Outcome State Fault Refusal :=
  complete (encode (.clip8 ra rb rc)) s (forward .w8 .le ra rb rc s)

/-- `CLIP16LE [ra], [rb], rc`: float32 to signed 16-bit, little-endian samples (spec 41_clip_convert R151). -/
def execClip16le (ra rb rc : Reg) (s : State) : Host.Outcome State Fault Refusal :=
  complete (encode (.clip16le ra rb rc)) s (forward .w16 .le ra rb rc s)

/-- `CLIP24LE [ra], [rb], rc`: float32 to signed packed 24-bit, little-endian samples (spec 41_clip_convert R153). -/
def execClip24le (ra rb rc : Reg) (s : State) : Host.Outcome State Fault Refusal :=
  complete (encode (.clip24le ra rb rc)) s (forward .w24 .le ra rb rc s)

/-- `CLIP32LE [ra], [rb], rc`: float32 to signed 32-bit, little-endian samples (spec 41_clip_convert R155). -/
def execClip32le (ra rb rc : Reg) (s : State) : Host.Outcome State Fault Refusal :=
  complete (encode (.clip32le ra rb rc)) s (forward .w32 .le ra rb rc s)

/-- `CLIP16BE [ra], [rb], rc`: float32 to signed 16-bit, byte-swapped samples (spec 41_clip_convert R152). -/
def execClip16be (ra rb rc : Reg) (s : State) : Host.Outcome State Fault Refusal :=
  complete (encode (.clip16be ra rb rc)) s (forward .w16 .be ra rb rc s)

/-- `CLIP24BE [ra], [rb], rc`: float32 to signed packed 24-bit, byte-swapped samples (spec 41_clip_convert R154). -/
def execClip24be (ra rb rc : Reg) (s : State) : Host.Outcome State Fault Refusal :=
  complete (encode (.clip24be ra rb rc)) s (forward .w24 .be ra rb rc s)

/-- `CLIP32BE [ra], [rb], rc`: float32 to signed 32-bit, byte-swapped samples (spec 41_clip_convert R156). -/
def execClip32be (ra rb rc : Reg) (s : State) : Host.Outcome State Fault Refusal :=
  complete (encode (.clip32be ra rb rc)) s (forward .w32 .be ra rb rc s)

/-- `TOF8 [ra], [rb], rc`: signed 8-bit to float32 (spec 41_clip_convert R160). -/
def execTof8 (ra rb rc : Reg) (s : State) : Host.Outcome State Fault Refusal :=
  complete (encode (.tof8 ra rb rc)) s (inverse .w8 .le ra rb rc s)

/-- `TOF16LE [ra], [rb], rc`: signed 16-bit to float32, little-endian samples (spec 41_clip_convert R161). -/
def execTof16le (ra rb rc : Reg) (s : State) : Host.Outcome State Fault Refusal :=
  complete (encode (.tof16le ra rb rc)) s (inverse .w16 .le ra rb rc s)

/-- `TOF24LE [ra], [rb], rc`: signed packed 24-bit to float32, little-endian samples (spec 41_clip_convert R163). -/
def execTof24le (ra rb rc : Reg) (s : State) : Host.Outcome State Fault Refusal :=
  complete (encode (.tof24le ra rb rc)) s (inverse .w24 .le ra rb rc s)

/-- `TOF32LE [ra], [rb], rc`: signed 32-bit to float32, little-endian samples (spec 41_clip_convert R165). -/
def execTof32le (ra rb rc : Reg) (s : State) : Host.Outcome State Fault Refusal :=
  complete (encode (.tof32le ra rb rc)) s (inverse .w32 .le ra rb rc s)

/-- `TOF16BE [ra], [rb], rc`: signed 16-bit to float32, byte-swapped samples (spec 41_clip_convert R162). -/
def execTof16be (ra rb rc : Reg) (s : State) : Host.Outcome State Fault Refusal :=
  complete (encode (.tof16be ra rb rc)) s (inverse .w16 .be ra rb rc s)

/-- `TOF24BE [ra], [rb], rc`: signed packed 24-bit to float32, byte-swapped samples (spec 41_clip_convert R164). -/
def execTof24be (ra rb rc : Reg) (s : State) : Host.Outcome State Fault Refusal :=
  complete (encode (.tof24be ra rb rc)) s (inverse .w24 .be ra rb rc s)

/-- `TOF32BE [ra], [rb], rc`: signed 32-bit to float32, byte-swapped samples (spec 41_clip_convert R166). -/
def execTof32be (ra rb rc : Reg) (s : State) : Host.Outcome State Fault Refusal :=
  complete (encode (.tof32be ra rb rc)) s (inverse .w32 .be ra rb rc s)

end Sys2Proof.Machine
end

