-- ==== Sys2Proof/Machine/Est.lean ====
section
/-! DEFINITION. Unit EST: the anchor FIFO, the rate estimate and the frame-to-time query (spec
43_rate_estimator). -/

namespace Sys2Proof.Machine

/-- `ANCN`: the number of anchors in the FIFO (spec 10_state R37). -/
def State.ancn (s : State) : Nat := s.anchors.length

/-- The newest anchor, the reference anchor (spec 43_rate_estimator R211, R215); none if the FIFO is empty. -/
def State.newest (s : State) : Option Anchor := s.anchors.getLast?

/-- The anchor in slot `k` of the FIFO storage: the anchors, oldest first, lie at `(ANCHEAD + j) mod A_MAX`;
a slot outside that range holds no value (spec 10_state R41). -/
def State.slot (s : State) (k : Nat) : Option Anchor :=
  s.anchors[(k + s.cfg.aMax - s.anchead.toNat) % s.cfg.aMax]?

/-- `x * y` on 140 bits, exact (spec 43_rate_estimator R213). -/
def wideMul (x y : Word64) : BitVec 140 := x.setWidth 140 * y.setWidth 140

/-- Evict the oldest anchor: its terms leave the sums, `ANCHEAD` moves on (spec 43_rate_estimator R213). -/
def State.evictOldest (s : State) : State :=
  match s.anchors with
  | [] => s
  | o :: rest =>
    { s with
      sx := s.sx - o.frame.setWidth 76
      sy := s.sy - o.time.setWidth 76
      sxx := s.sxx - wideMul o.frame o.frame
      sxy := s.sxy - wideMul o.frame o.time
      anchead := BitVec.ofNat 12 ((s.anchead.toNat + 1) % s.cfg.aMax)
      anchors := rest }

/-- Store an anchor behind the newest, in slot `(ANCHEAD + ANCN) mod A_MAX` (spec 43_rate_estimator R213). -/
def State.appendAnchor (s : State) (a : Anchor) : State :=
  { s with
    sx := s.sx + a.frame.setWidth 76
    sy := s.sy + a.time.setWidth 76
    sxx := s.sxx + wideMul a.frame a.frame
    sxy := s.sxy + wideMul a.frame a.time
    anchors := s.anchors ++ [a] }

/-- Add one anchor, evicting the oldest when the FIFO is full (spec 43_rate_estimator R213). -/
def State.addAnchor (s : State) (a : Anchor) : State :=
  (if s.ancn = s.cfg.aMax then s.evictOldest else s).appendAnchor a

/-- Empty the FIFO (spec 43_rate_estimator R212). -/
def State.clearAnchors (s : State) : State :=
  { s with anchors := [], anchead := 0#12, sx := 0#76, sy := 0#76, sxx := 0#140, sxy := 0#140 }

/-- `den = N * SXX - SX * SX` (spec 43_rate_estimator R217). -/
def State.den (s : State) : Int := s.ancn * s.sxx.toNat - s.sx.toNat * s.sx.toNat

/-- `num = N * SXY - SX * SY` (spec 43_rate_estimator R217). -/
def State.num (s : State) : Int := s.ancn * s.sxy.toNat - s.sx.toNat * s.sy.toNat

/-- `W = floor((XPREC * num) / den)`, toward minus infinity (spec 43_rate_estimator R218). -/
def State.slope (s : State) : Int := Int.fdiv (s.cfg.xprec * s.num) s.den

/-- An exact result for an unsigned 64-bit destination (spec 60_exceptions R267). -/
def fit64 (x : Int) : Except Cause Word64 :=
  if x < 0 ∨ 2 ^ 64 ≤ x then .error .resultRange else .ok (BitVec.ofInt 64 x)

/-- The value of `ESTRATE`, with its faults in order (spec 43_rate_estimator R221). -/
def State.rate (s : State) : Except Cause Word64 :=
  if s.ancn < 2 then .error .estUnderdetermined
  else if s.den = 0 then .error .estUnderdetermined
  else fit64 s.slope

/-- `T = Ta + floor(((F - Fa) * W) / XPREC)` (spec 43_rate_estimator R224). -/
def queryTime (a : Anchor) (w f : Word64) (xprec : Nat) : Int :=
  a.time.toNat + Int.fdiv (((f.toNat : Int) - a.frame.toNat) * w.toNat) xprec

/-- The value of `ESTF2T`, with its faults in order (spec 43_rate_estimator R225). A FIFO that has a rate is
not empty, so the first arm of the inner match is never taken. -/
def State.frameToTime (s : State) (f : Word64) : Except Cause Word64 :=
  match s.rate with
  | .error k => .error k
  | .ok w =>
    match s.newest with
    | none => .error .estUnderdetermined
    | some a => fit64 (queryTime a w f s.cfg.xprec)

/-- What a command that reads the reference anchor gives (spec 43_rate_estimator R215, R216). -/
def State.reference (s : State) : Except Cause Anchor :=
  match s.newest with
  | none => .error .estUnderdetermined
  | some a => .ok a

/-- `ANCLR`: empty the anchor FIFO (spec 43_rate_estimator R212). -/
def execAnclr (s : State) : Host.Outcome State Fault Refusal :=
  .next s.clearAnchors

/-- `ANCADD ra, rb`: add one anchor (spec 43_rate_estimator R213). -/
def execAncadd (ra rb : Reg) (s : State) : Host.Outcome State Fault Refusal :=
  .next (s.addAnchor ⟨s.reg ra, s.reg rb⟩)

/-- `ANCNT rd`: read the anchor count (spec 43_rate_estimator R214). -/
def execAncnt (rd : Reg) (s : State) : Host.Outcome State Fault Refusal :=
  .next (s.setReg rd (BitVec.ofNat 64 s.ancn))

/-- `ANCF rd`: read the frame number of the reference anchor (spec 43_rate_estimator R215). -/
def execAncf (rd : Reg) (s : State) : Host.Outcome State Fault Refusal :=
  complete (encode (.ancf rd)) s (s.reference.map fun a => s.setReg rd a.frame)

/-- `ANCT rd`: read the host time of the reference anchor (spec 43_rate_estimator R216). -/
def execAnct (rd : Reg) (s : State) : Host.Outcome State Fault Refusal :=
  complete (encode (.anct rd)) s (s.reference.map fun a => s.setReg rd a.time)

/-- `ESTRATE rd`: emit the rate estimate (spec 43_rate_estimator R221). -/
def execEstrate (rd : Reg) (s : State) : Host.Outcome State Fault Refusal :=
  complete (encode (.estrate rd)) s (s.rate.map fun w => s.setReg rd w)

/-- `ESTF2T rd, ra`: the frame-to-time query (spec 43_rate_estimator R225). -/
def execEstf2t (rd ra : Reg) (s : State) : Host.Outcome State Fault Refusal :=
  complete (encode (.estf2t rd ra)) s
    ((s.frameToTime (s.reg ra)).map fun t => s.setReg rd t)

end Sys2Proof.Machine
end

