-- ==== Sys2Proof/Machine/Filter.lean ====
section
/-! DEFINITION. The jitter filter: coefficients, the two weighted sums, and the actions `prime` and `push`
(spec 42_jitter_fir R181 to R183). -/

namespace Sys2Proof.Machine

/-- `C[0 .. 32]`, the 33 coefficients (spec 10_state R36). The count is 33, not 32 (spec 90_conflicts C1). -/
def firCoef : Vector (BitVec 7) 33 :=
  #v[1, 2, 4, 7, 10, 14, 19, 25, 31, 37, 43, 49, 54, 58, 62, 64, 64,
     64, 62, 58, 54, 49, 43, 37, 31, 25, 19, 14, 10, 7, 4, 2, 1]

/-- The weights of the full filter, newest sample first (spec 42_jitter_fir R181). -/
def fullWeights : List Nat := firCoef.toList.map BitVec.toNat

/-- The weights of the start-up filter, newest sample first (spec 42_jitter_fir R181). -/
def boxWeights : List Nat := List.replicate 4 Config.boxWeight

/-- `x[k]`: the sample `k` places older than the newest, which is in slot `p` (spec 42_jitter_fir R181). -/
def olderSample (data : Vector Word64 33) (p k : Nat) : Word64 :=
  data[(p + 33 - k) % 33]'(Nat.mod_lt _ (by decide))

/-- The weighted sum of the samples from `k` places back on, on exact integers (spec 42_jitter_fir R181). -/
def weightedSum (data : Vector Word64 33) (p k : Nat) : List Nat → Nat
  | [] => 0
  | c :: cs => c * (olderSample data p k).toNat + weightedSum data p (k + 1) cs

/-- `full(p)` or `box(p)`: the weighted sum divided by `F_SCALE`, remainder dropped (spec 42_jitter_fir R181). -/
def filterOutput (weights : List Nat) (data : Vector Word64 33) (p : Nat) : Nat :=
  weightedSum data p 0 weights / Config.fScale

/-- The action `prime(v)` (spec 42_jitter_fir R182); its result is `v`. -/
def State.prime (s : State) (v : Word64) : State :=
  { s with firdata := Vector.replicate 33 v, firwp := 0#6, firiter := 1#32 }

/-- `FIRDATA` with the sample written to the slot `FIRWP` (spec 42_jitter_fir R183). -/
def State.firInsert (s : State) (v : Word64) : Vector Word64 33 :=
  s.firdata.setIfInBounds s.firwp.toNat v

/-- `min(FIRITER + 1, 2^32 - 1)` (spec 42_jitter_fir R183). -/
def nextIter (i : BitVec 32) : BitVec 32 := BitVec.ofNat 32 (min (i.toNat + 1) (2 ^ 32 - 1))

/-- The state after the action `push(v)` (spec 42_jitter_fir R183). -/
def State.push (s : State) (v : Word64) : State :=
  if s.firiter = 0#32 then s.prime v
  else
    { s with
      firdata := s.firInsert v
      firwp := BitVec.ofNat 6 ((s.firwp.toNat + 1) % 33)
      firiter := nextIter s.firiter }

/-- The result of the action `push(v)`: the start-up filter while `FIRITER` is below 33 before the push, the
full filter from then on (spec 42_jitter_fir R183). -/
def State.pushResult (s : State) (v : Word64) : Word64 :=
  if s.firiter = 0#32 then v
  else
    BitVec.ofNat 64
      (filterOutput (if s.firiter.toNat < 33 then boxWeights else fullWeights) (s.firInsert v)
        s.firwp.toNat)

end Sys2Proof.Machine
end

