-- ==== Sys2Proof/Machine/Fir.lean ====
section
/-! DEFINITION. Unit FIR: the filter and timestamp commands (spec 42_jitter_fir R184 to R188). -/

namespace Sys2Proof.Machine

/-- The nominal delta `floor((10^9 * frames) / rate)` (spec 42_jitter_fir R186). -/
def nominalDelta (frames rate : Nat) : Nat := 10 ^ 9 * frames / rate

/-- The rule of `FIRNOM` (spec 42_jitter_fir R186). -/
def State.storeNominal (s : State) (ra rb : Reg) : Except Cause State :=
  let frames := (s.reg ra).toNat
  let rate := (s.reg rb).toNat
  if rate = 0 then .error .divideByZero
  else if 2 ^ 64 ≤ nominalDelta frames rate then .error .resultRange
  else .ok { s.setNomv true with firnom := BitVec.ofNat 64 (nominalDelta frames rate) }

/-- The priming branch of `TSTAMP` (spec 42_jitter_fir R188). -/
def State.stampPriming (s : State) (rd : Reg) (raw : Word64) : Except Cause State :=
  if s.nomValid then
    .ok (({ s.prime s.firnom with tsraw := raw, tsfilt := raw }).setInit false |>.setReg rd raw)
  else .error .notConfigured

/-- The filtering branch of `TSTAMP` (spec 42_jitter_fir R188). -/
def State.stampFiltering (s : State) (rd : Reg) (raw : Word64) : Except Cause State :=
  if raw.toNat < s.tsraw.toNat then .error .rawRegression
  else
    let delta := raw - s.tsraw
    let t := s.tsfilt.toNat + (s.pushResult delta).toNat
    if 2 ^ 64 ≤ t then .error .resultRange
    else
      .ok (({ s.push delta with tsraw := raw, tsfilt := BitVec.ofNat 64 t }).setReg rd
        (BitVec.ofNat 64 t))

/-- `FIRRST`: cold-start the filter (spec 42_jitter_fir R184). -/
def execFirrst (s : State) : Host.Outcome State Fault Refusal :=
  .next { s with firiter := 0#32 }

/-- `FIRPUSH rd, ra`: ingest one delta and return the filtered delta (spec 42_jitter_fir R185). -/
def execFirpush (rd ra : Reg) (s : State) : Host.Outcome State Fault Refusal :=
  .next ((s.push (s.reg ra)).setReg rd (s.pushResult (s.reg ra)))

/-- `FIRNOM ra, rb`: compute and store the nominal delta (spec 42_jitter_fir R186). -/
def execFirnom (ra rb : Reg) (s : State) : Host.Outcome State Fault Refusal :=
  complete (encode (.firnom ra rb)) s (s.storeNominal ra rb)

/-- `TSINIT`: arm the priming of the filter (spec 42_jitter_fir R187). -/
def execTsinit (s : State) : Host.Outcome State Fault Refusal :=
  .next (s.setInit true)

/-- `TSTAMP rd, ra`: take a raw timestamp and return the filtered one (spec 42_jitter_fir R188). -/
def execTstamp (rd ra : Reg) (s : State) : Host.Outcome State Fault Refusal :=
  complete (encode (.tstamp rd ra)) s
    (if s.initArmed then s.stampPriming rd (s.reg ra) else s.stampFiltering rd (s.reg ra))

end Sys2Proof.Machine
end

