-- ==== Sys2Proof/Machine/Prim.lean ====
section
/-! DEFINITION. Unit PRIM: byte swaps, the feedback-value decoders and the split of a 16.16 value (spec
40_primitives). -/

namespace Sys2Proof.Machine

/-- The two low bytes exchanged, the rest zero (spec 40_primitives R121). -/
def swap16 (v : Word64) : Word64 := (v.extractLsb' 0 8 ++ v.extractLsb' 8 8).setWidth 64

/-- The four low bytes reversed, the rest zero (spec 40_primitives R122). -/
def swap32 (v : Word64) : Word64 :=
  (v.extractLsb' 0 8 ++ v.extractLsb' 8 8 ++ v.extractLsb' 16 8 ++ v.extractLsb' 24 8).setWidth 64

/-- The feedback payload of `n` bytes at the address a register holds (spec 20_memory R63, R66). -/
def State.payload (s : State) (ra : Reg) (n : Nat) : Except Cause Nat :=
  if s.inMem (s.reg ra).toNat n then .ok (leNat (s.mem.readBytes (s.reg ra).toNat n))
  else .error .addrRange

/-- `BSWAP16 rd, ra` (spec 40_primitives R121). -/
def execBswap16 (rd ra : Reg) (s : State) : Host.Outcome State Fault Refusal :=
  .next (s.setReg rd (swap16 (s.reg ra)))

/-- `BSWAP32 rd, ra` (spec 40_primitives R122). -/
def execBswap32 (rd ra : Reg) (s : State) : Host.Outcome State Fault Refusal :=
  .next (s.setReg rd (swap32 (s.reg ra)))

/-- `FB3 rd, [ra]`: the 10.14 payload promoted to 16.16 (spec 40_primitives R123). -/
def execFb3 (rd ra : Reg) (s : State) : Host.Outcome State Fault Refusal :=
  complete (encode (.fb3 rd ra)) s
    ((s.payload ra 3).map fun p => s.setReg rd (BitVec.ofNat 64 (p * 4)))

/-- `FB4 rd, [ra]`: the 16.16 payload as it is (spec 40_primitives R124). -/
def execFb4 (rd ra : Reg) (s : State) : Host.Outcome State Fault Refusal :=
  complete (encode (.fb4 rd ra)) s
    ((s.payload ra 4).map fun p => s.setReg rd (BitVec.ofNat 64 p))

/-- `FXW rd, ra`: the whole part of a 16.16 value (spec 40_primitives R125). -/
def execFxw (rd ra : Reg) (s : State) : Host.Outcome State Fault Refusal :=
  .next (s.setReg rd (((s.reg ra).extractLsb' 16 16).setWidth 64))

/-- `FXF rd, ra`: the fraction of a 16.16 value, times 1000 (spec 40_primitives R126). -/
def execFxf (rd ra : Reg) (s : State) : Host.Outcome State Fault Refusal :=
  .next (s.setReg rd (((s.reg ra).extractLsb' 0 16).setWidth 64 * 1000#64))

end Sys2Proof.Machine
end

