-- ==== Sys2Proof/Machine/Csr.lean ====
section
/-! DEFINITION. The CSR map (spec 10_state R26 to R43). Every CSR is read-only; a narrower one reads
zero-extended to 64 bits (R26). -/

namespace Sys2Proof.Machine

/-- The CSRs with a number of their own: all but the arrays `FIRDATA` and `FIRCOEF`. -/
def State.scalarCsr (s : State) (n : Nat) : Option Word64 :=
  match n with
  | 0x000 => some (s.status.setWidth 64)
  | 0x001 => some (s.fcmd.setWidth 64)
  | 0x010 => some (s.firctl.setWidth 64)
  | 0x011 => some (s.firiter.setWidth 64)
  | 0x012 => some (s.firwp.setWidth 64)
  | 0x013 => some s.firnom
  | 0x014 => some s.tsraw
  | 0x015 => some s.tsfilt
  | 0x020 => some (BitVec.ofNat 64 s.ancn)
  | 0x021 => some (s.anchead.setWidth 64)
  | 0x022 => some (s.sx.extractLsb' 0 64)
  | 0x023 => some ((s.sx.extractLsb' 64 12).setWidth 64)
  | 0x024 => some (s.sy.extractLsb' 0 64)
  | 0x025 => some ((s.sy.extractLsb' 64 12).setWidth 64)
  | 0x026 => some (s.sxx.extractLsb' 0 64)
  | 0x027 => some (s.sxx.extractLsb' 64 64)
  | 0x028 => some ((s.sxx.extractLsb' 128 12).setWidth 64)
  | 0x029 => some (s.sxy.extractLsb' 0 64)
  | 0x02A => some (s.sxy.extractLsb' 64 64)
  | 0x02B => some ((s.sxy.extractLsb' 128 12).setWidth 64)
  | 0x0F0 => some Config.blockId
  | 0x0F1 => some (BitVec.ofNat 64 s.cfg.aMax)
  | 0x0F2 => some (BitVec.ofNat 64 s.cfg.memSize)
  | 0x0F3 => some (BitVec.ofNat 64 s.cfg.xprec)
  | _ => none

/-- The CSR numbered `c`, zero-extended to 64 bits; none if the number is not defined (spec 10_state R26). -/
def State.csr (s : State) (c : CsrNum) : Option Word64 :=
  let n := c.toNat
  if h : 0x040 ≤ n ∧ n ≤ 0x060 then some (s.firdata[n - 0x040]'(by omega))
  else if h : 0x080 ≤ n ∧ n ≤ 0x0A0 then some ((firCoef[n - 0x080]'(by omega)).setWidth 64)
  else s.scalarCsr n

end Sys2Proof.Machine
end

