-- ==== Sys2Proof/Machine/System.lean ====
section
/-! DEFINITION. The system commands (spec 44_system R251 to R254). -/

namespace Sys2Proof.Machine

/-- `v[47:0] ∥ imm16` (spec 44_system R253). -/
def shiftInsert (v : Word64) (imm16 : BitVec 16) : Word64 := v.extractLsb' 0 48 ++ imm16

/-- `NOP`: do nothing (spec 44_system R251). -/
def execNop (s : State) : Host.Outcome State Fault Refusal :=
  .next s

/-- `LI rd, imm16`: load a 16-bit constant (spec 44_system R252). -/
def execLi (rd : Reg) (imm16 : BitVec 16) (s : State) : Host.Outcome State Fault Refusal :=
  .next (s.setReg rd (imm16.setWidth 64))

/-- `LIS rd, imm16`: shift left 16 bits and insert (spec 44_system R253). -/
def execLis (rd : Reg) (imm16 : BitVec 16) (s : State) : Host.Outcome State Fault Refusal :=
  .next (s.setReg rd (shiftInsert (s.reg rd) imm16))

/-- `CSRR rd, csr`: read a control and status register (spec 44_system R254). -/
def execCsrr (rd : Reg) (csr : CsrNum) (s : State) : Host.Outcome State Fault Refusal :=
  complete (encode (.csrr rd csr)) s
    (match s.csr csr with
    | some v => .ok (s.setReg rd v)
    | none => .error .badCsr)

end Sys2Proof.Machine
end

