-- ==== Sys2Proof/Machine/Dispatch.lean ====
section
/-! DEFINITION. One arm per command (spec 30_encoding R94): the meaning of a command that executes, that is,
while `STATUS.FAULT` is 0; `runCommand` makes that check (spec 60_exceptions R266). -/

namespace Sys2Proof.Machine

def exec (i : Instr) (s : State) : Host.Outcome State Fault Refusal :=
  match i with
  | .nop => Sys2Proof.Machine.execNop s
  | .li rd imm16 => Sys2Proof.Machine.execLi rd imm16 s
  | .lis rd imm16 => Sys2Proof.Machine.execLis rd imm16 s
  | .csrr rd csr => Sys2Proof.Machine.execCsrr rd csr s
  | .bswap16 rd ra => Sys2Proof.Machine.execBswap16 rd ra s
  | .bswap32 rd ra => Sys2Proof.Machine.execBswap32 rd ra s
  | .fb3 rd ra => Sys2Proof.Machine.execFb3 rd ra s
  | .fb4 rd ra => Sys2Proof.Machine.execFb4 rd ra s
  | .fxw rd ra => Sys2Proof.Machine.execFxw rd ra s
  | .fxf rd ra => Sys2Proof.Machine.execFxf rd ra s
  | .clip8 ra rb rc => Sys2Proof.Machine.execClip8 ra rb rc s
  | .clip16le ra rb rc => Sys2Proof.Machine.execClip16le ra rb rc s
  | .clip24le ra rb rc => Sys2Proof.Machine.execClip24le ra rb rc s
  | .clip32le ra rb rc => Sys2Proof.Machine.execClip32le ra rb rc s
  | .clip16be ra rb rc => Sys2Proof.Machine.execClip16be ra rb rc s
  | .clip24be ra rb rc => Sys2Proof.Machine.execClip24be ra rb rc s
  | .clip32be ra rb rc => Sys2Proof.Machine.execClip32be ra rb rc s
  | .tof8 ra rb rc => Sys2Proof.Machine.execTof8 ra rb rc s
  | .tof16le ra rb rc => Sys2Proof.Machine.execTof16le ra rb rc s
  | .tof24le ra rb rc => Sys2Proof.Machine.execTof24le ra rb rc s
  | .tof32le ra rb rc => Sys2Proof.Machine.execTof32le ra rb rc s
  | .tof16be ra rb rc => Sys2Proof.Machine.execTof16be ra rb rc s
  | .tof24be ra rb rc => Sys2Proof.Machine.execTof24be ra rb rc s
  | .tof32be ra rb rc => Sys2Proof.Machine.execTof32be ra rb rc s
  | .firrst => Sys2Proof.Machine.execFirrst s
  | .firpush rd ra => Sys2Proof.Machine.execFirpush rd ra s
  | .firnom ra rb => Sys2Proof.Machine.execFirnom ra rb s
  | .tsinit => Sys2Proof.Machine.execTsinit s
  | .tstamp rd ra => Sys2Proof.Machine.execTstamp rd ra s
  | .anclr => Sys2Proof.Machine.execAnclr s
  | .ancadd ra rb => Sys2Proof.Machine.execAncadd ra rb s
  | .ancnt rd => Sys2Proof.Machine.execAncnt rd s
  | .ancf rd => Sys2Proof.Machine.execAncf rd s
  | .anct rd => Sys2Proof.Machine.execAnct rd s
  | .estrate rd => Sys2Proof.Machine.execEstrate rd s
  | .estf2t rd ra => Sys2Proof.Machine.execEstf2t rd ra s

end Sys2Proof.Machine
end

