-- ==== Sys2Proof/Machine/Transactions.lean ====
section
/-! DEFINITION. The seven host transactions, each a function on the state (spec 60_exceptions R270). -/

namespace Sys2Proof.Machine

/-- `CMD(w)`: discarded undecoded while faulted, `IllegalCommand` if the word spells no command, else the
command's meaning (spec 60_exceptions R264, R266, 30_encoding R98). -/
def runCommand (w : CmdWord) (s : State) : Host.Outcome State Fault Refusal :=
  if s.faulted then .next s
  else
    match decode w with
    | .ok i => exec i s
    | .error _ => raise .illegalCommand w s

/-- The value a read transaction returns, put behind the earlier ones (log 5). -/
def State.reply (s : State) (r : Reply) : State := { s with output := s.output ++ [r] }

/-- `MEMWR(a, bs)`: ignored entirely if it does not lie inside `MEM` (spec 60_exceptions R270). -/
def State.hostWrite (s : State) (a : Nat) (bs : List Byte) : State :=
  if s.inMem a bs.length then s.storeBytes a bs else s

/-- The bytes `MEMRD(a, n)` returns: `n` zero bytes if the range does not lie inside `MEM` (spec
60_exceptions R270; DEDUCED for a range that lies partly inside, log 6). -/
def State.hostRead (s : State) (a n : Nat) : List Byte :=
  if s.inMem a n then s.mem.readBytes a n else List.replicate n 0#8

/-- One host transaction (spec 60_exceptions R270). -/
def transact (t : Transaction) (s : State) : Host.Outcome State Fault Refusal :=
  match t with
  | .reset => .next s.applyReset
  | .cmd w => runCommand w s
  | .regwr i v => .next (s.setReg i v)
  | .regrd i => .next (s.reply (.reg (s.reg i)))
  | .memwr a bs => .next (s.hostWrite a bs)
  | .memrd a n => .next (s.reply (.mem (s.hostRead a n)))
  | .csrrd c => .next (s.reply (.csr ((s.csr c).getD 0#64)))

/-- Apply the oldest pending transaction; with none pending the block is idle and keeps all state (spec
60_exceptions R273, 70_reset_and_hazards R306; DEDUCED, log 4). -/
def nextTransaction (s : State) : Host.Outcome State Fault Refusal :=
  match s.input with
  | [] => .next s
  | t :: rest => transact t { s with input := rest }

/-- The transaction list with a command put first. -/
def State.presentFirst (s : State) (w : CmdWord) : State := { s with input := .cmd w :: s.input }

end Sys2Proof.Machine
end

