-- ==== Sys2Proof/Machine/Step.lean ====
section
/-! DEFINITION. One step of a run: the next host transaction (spec 70_reset_and_hazards R306). -/

namespace Sys2Proof.Machine

/-- One step: the oldest pending host transaction, applied whole (spec 10_state R20, 20_memory R72). -/
def step (s : State) : Host.Outcome State Fault Refusal := nextTransaction s

/-- The state with the command word presented as the next transaction (log 3). The block fetches nothing
(spec 10_state R24): its next command is the one the host presents next. -/
def State.withFetchWord (s : State) (nbits w : Nat) : State := s.presentFirst (tableWord nbits w)

end Sys2Proof.Machine
end

