-- ==== Sys2Proof/Assembly.lean ====
section
/-! DEFINITION. The mnemonics, the assembler's text of a command and the one pseudo-instruction (spec
30_encoding R94, R100, R101). -/

namespace Sys2Proof

/-- The mnemonic of a command (spec 30_encoding R94). -/
def Instr.mnemonic : Instr → String
  | .nop => "NOP"
  | .li _ _ => "LI"
  | .lis _ _ => "LIS"
  | .csrr _ _ => "CSRR"
  | .bswap16 _ _ => "BSWAP16"
  | .bswap32 _ _ => "BSWAP32"
  | .fb3 _ _ => "FB3"
  | .fb4 _ _ => "FB4"
  | .fxw _ _ => "FXW"
  | .fxf _ _ => "FXF"
  | .clip8 _ _ _ => "CLIP8"
  | .clip16le _ _ _ => "CLIP16LE"
  | .clip24le _ _ _ => "CLIP24LE"
  | .clip32le _ _ _ => "CLIP32LE"
  | .clip16be _ _ _ => "CLIP16BE"
  | .clip24be _ _ _ => "CLIP24BE"
  | .clip32be _ _ _ => "CLIP32BE"
  | .tof8 _ _ _ => "TOF8"
  | .tof16le _ _ _ => "TOF16LE"
  | .tof24le _ _ _ => "TOF24LE"
  | .tof32le _ _ _ => "TOF32LE"
  | .tof16be _ _ _ => "TOF16BE"
  | .tof24be _ _ _ => "TOF24BE"
  | .tof32be _ _ _ => "TOF32BE"
  | .firrst => "FIRRST"
  | .firpush _ _ => "FIRPUSH"
  | .firnom _ _ => "FIRNOM"
  | .tsinit => "TSINIT"
  | .tstamp _ _ => "TSTAMP"
  | .anclr => "ANCLR"
  | .ancadd _ _ => "ANCADD"
  | .ancnt _ => "ANCNT"
  | .ancf _ => "ANCF"
  | .anct _ => "ANCT"
  | .estrate _ => "ESTRATE"
  | .estf2t _ _ => "ESTF2T"

/-- A register operand (spec 30_encoding R100). -/
def regText (r : Reg) : String := "d" ++ toString r.toNat

/-- A register used as a memory address (spec 30_encoding R100). -/
def addrText (r : Reg) : String := "[" ++ regText r ++ "]"

/-- The operands of a command, in the order of spec 30_encoding R100; a CSR by its number. -/
def Instr.operandText : Instr → List String
  | .nop | .firrst | .tsinit | .anclr => []
  | .li rd imm16 | .lis rd imm16 => [regText rd, toString imm16.toNat]
  | .csrr rd csr => [regText rd, toString csr.toNat]
  | .bswap16 rd ra | .bswap32 rd ra | .fxw rd ra | .fxf rd ra => [regText rd, regText ra]
  | .firpush rd ra | .tstamp rd ra | .estf2t rd ra => [regText rd, regText ra]
  | .fb3 rd ra | .fb4 rd ra => [regText rd, addrText ra]
  | .clip8 ra rb rc | .clip16le ra rb rc | .clip24le ra rb rc | .clip32le ra rb rc
  | .clip16be ra rb rc | .clip24be ra rb rc | .clip32be ra rb rc
  | .tof8 ra rb rc | .tof16le ra rb rc | .tof24le ra rb rc | .tof32le ra rb rc
  | .tof16be ra rb rc | .tof24be ra rb rc | .tof32be ra rb rc =>
    [addrText ra, addrText rb, regText rc]
  | .firnom ra rb | .ancadd ra rb => [regText ra, regText rb]
  | .ancnt rd | .ancf rd | .anct rd | .estrate rd => [regText rd]

/-- The assembler's line for a command (spec 30_encoding R100). -/
def Instr.assembly (i : Instr) : String :=
  match i.operandText with
  | [] => i.mnemonic
  | ops => i.mnemonic ++ " " ++ String.intercalate ", " ops

/-- The 16-bit chunk `c_j` of a constant (spec 30_encoding R101). -/
def chunk (v : Word64) (j : Nat) : BitVec 16 := v.extractLsb' (16 * j) 16

/-- The pseudo-instruction `LI64 rd, imm64`: `LI` of the most significant non-zero chunk, then `LIS` of each
chunk below it (spec 30_encoding R101). -/
def li64 (rd : Reg) (v : Word64) : List Instr :=
  if chunk v 3 ≠ 0 then
    [.li rd (chunk v 3), .lis rd (chunk v 2), .lis rd (chunk v 1), .lis rd (chunk v 0)]
  else if chunk v 2 ≠ 0 then [.li rd (chunk v 2), .lis rd (chunk v 1), .lis rd (chunk v 0)]
  else if chunk v 1 ≠ 0 then [.li rd (chunk v 1), .lis rd (chunk v 0)]
  else [.li rd (chunk v 0)]

end Sys2Proof
end

