-- ==== Sys2Proof/Safety.lean ====
section
/-! DEFINITION. The terms the statements use: what a step leaves unchanged, what a fault leaves, the invariant
of the machine, which command may read, write and raise what, and the values of binary32 words as rationals. -/

namespace Sys2Proof.Machine

/-- Every operand register is unchanged. -/
def SameRegs (s t : State) : Prop := ∀ r : Reg, t.reg r = s.reg r

/-- Every operand register but `rd` is unchanged. -/
def SameRegsBut (rd : Reg) (s t : State) : Prop := ∀ r : Reg, r ≠ rd → t.reg r = s.reg r

/-- `STATUS` and `FCMD` are unchanged. -/
structure SameFault (s t : State) : Prop where
  status : t.status = s.status
  fcmd : t.fcmd = s.fcmd

/-- The state of unit FIR is unchanged. -/
structure SameFilter (s t : State) : Prop where
  firctl : t.firctl = s.firctl
  firiter : t.firiter = s.firiter
  firwp : t.firwp = s.firwp
  firnom : t.firnom = s.firnom
  tsraw : t.tsraw = s.tsraw
  tsfilt : t.tsfilt = s.tsfilt
  firdata : t.firdata = s.firdata

/-- The state of unit FIR that a push leaves alone is unchanged (spec 42_jitter_fir R185). -/
structure SameStamps (s t : State) : Prop where
  firctl : t.firctl = s.firctl
  firnom : t.firnom = s.firnom
  tsraw : t.tsraw = s.tsraw
  tsfilt : t.tsfilt = s.tsfilt

/-- The state of unit EST is unchanged. -/
structure SameAnchors (s t : State) : Prop where
  anchors : t.anchors = s.anchors
  anchead : t.anchead = s.anchead
  sx : t.sx = s.sx
  sy : t.sy = s.sy
  sxx : t.sxx = s.sxx
  sxy : t.sxy = s.sxy

/-- Every byte of `MEM` reads as before. -/
def SameMem (s t : State) : Prop := ∀ a, t.mem.read a = s.mem.read a

/-- Every byte of `MEM` outside the `n` bytes from `a` reads as before. -/
def SameMemOutside (a n : Nat) (s t : State) : Prop :=
  ∀ b, (b < a ∨ a + n ≤ b) → t.mem.read b = s.mem.read b

/-- The parameters, the transactions still pending and the values returned are unchanged. -/
structure SameHost (s t : State) : Prop where
  cfg : t.cfg = s.cfg
  input : t.input = s.input
  output : t.output = s.output

/-- The register `rd` takes the value `v`, and nothing else changes. -/
structure WritesReg (rd : Reg) (v : Word64) (s t : State) : Prop where
  value : t.reg rd = v
  regs : SameRegsBut rd s t
  fault : SameFault s t
  filter : SameFilter s t
  anchors : SameAnchors s t
  mem : SameMem s t
  host : SameHost s t

/-- A command `w` raised the cause of this code: `STATUS` holds the code above `FAULT = 1`, `FCMD` the word,
and nothing else changes (spec 60_exceptions R262). -/
structure Raises (code : BitVec 8) (w : CmdWord) (s t : State) : Prop where
  status : t.status = code ++ 0x01#8
  fcmd : t.fcmd = w
  regs : SameRegs s t
  filter : SameFilter s t
  anchors : SameAnchors s t
  mem : SameMem s t
  host : SameHost s t

/-- The command executes and raises the cause of this code. -/
def RaisesCode (code : BitVec 8) (i : Instr) (s : State) : Prop :=
  ∃ t, exec i s = .next t ∧ Raises code (encode i) s t

/-- A word with this opcode (bits 31:24) that is not the word of one of these commands raises
`IllegalCommand` (code 1) when it is executed (spec 30_encoding R91, R98). -/
def OtherWordsIllegal (op : BitVec 8) (spelled : Instr → Prop) : Prop :=
  ∀ (w : CmdWord) (s : State), w.extractLsb' 24 8 = op → (∀ i, spelled i → w ≠ encode i) →
    s.faulted = false → ∃ t, runCommand w s = .next t ∧ Raises 1 w s t

/-- The sum of a quantity over the anchors of the FIFO (spec 10_state R42). -/
def anchorSum (f : Anchor → Nat) (l : List Anchor) : Nat := (l.map f).sum

/-- What holds between any two transactions of a run. -/
structure Inv (s : State) : Prop where
  /-- The parameters are in range (spec 00_scope R7). -/
  cfg_valid : s.cfg.Valid
  /-- `MEM` is in its canonical form. -/
  mem_wf : s.mem.wf
  /-- Nothing is listed at or above `MEM_SIZE` (spec 20_memory R70). -/
  mem_inside : ∀ c ∈ s.mem, c.1 < s.cfg.memSize
  /-- `STATUS` bits 7:1 are 0 (spec 10_state R27). -/
  status_reserved : s.status.extractLsb' 1 7 = 0#7
  /-- While `FAULT = 0`, `STATUS` and `FCMD` are 0 (spec 10_state R27, R28). -/
  no_fault : s.faulted = false → s.status = 0#16 ∧ s.fcmd = 0#32
  /-- While `FAULT = 1`, `CAUSE` is one of the ten codes (spec 60_exceptions R263). -/
  fault_cause : s.faulted = true → 1 ≤ s.cause.toNat ∧ s.cause.toNat ≤ 10
  /-- While `FAULT = 1`, the cause is `IllegalCommand` exactly if `FCMD` is an illegal word (R263). -/
  fault_illegal : s.faulted = true → (s.cause = 1#8 ↔ legalWord s.fcmd = false)
  /-- While no nominal delta has been stored, `FIRNOM` is 0 and the next `TSTAMP` primes (spec 10_state R29,
  R32, 42_jitter_fir R188). -/
  nomv_clear : s.nomValid = false → s.firnom = 0#64 ∧ s.initArmed = true
  /-- `FIRWP` is 0 to 32 (spec 10_state R31). -/
  firwp_lt : s.firwp.toNat < 33
  /-- `ANCN` is at most `A_MAX` (spec 10_state R37). -/
  ancn_le : s.ancn ≤ s.cfg.aMax
  /-- `ANCHEAD` is below `A_MAX` (spec 10_state R38). -/
  anchead_lt : s.anchead.toNat < s.cfg.aMax
  /-- `ANCHEAD` leaves 0 only by eviction (spec 43_rate_estimator R213). -/
  anchead_zero : s.ancn < s.cfg.aMax → s.anchead = 0#12
  /-- The sums are the sums over the FIFO (spec 10_state R42). -/
  sx_sum : s.sx.toNat = anchorSum (fun a => a.frame.toNat) s.anchors
  sy_sum : s.sy.toNat = anchorSum (fun a => a.time.toNat) s.anchors
  sxx_sum : s.sxx.toNat = anchorSum (fun a => a.frame.toNat * a.frame.toNat) s.anchors
  sxy_sum : s.sxy.toNat = anchorSum (fun a => a.frame.toNat * a.time.toNat) s.anchors

/-- The register a command writes when it completes (spec 10_state R22). -/
def destination : Instr → Option Reg
  | .li rd _ | .lis rd _ | .csrr rd _ => some rd
  | .bswap16 rd _ | .bswap32 rd _ | .fb3 rd _ | .fb4 rd _ | .fxw rd _ | .fxf rd _ => some rd
  | .firpush rd _ | .tstamp rd _ | .estf2t rd _ => some rd
  | .ancnt rd | .ancf rd | .anct rd | .estrate rd => some rd
  | .nop | .firrst | .tsinit | .anclr | .firnom _ _ | .ancadd _ _ => none
  | .clip8 _ _ _ | .clip16le _ _ _ | .clip24le _ _ _ | .clip32le _ _ _ => none
  | .clip16be _ _ _ | .clip24be _ _ _ | .clip32be _ _ _ => none
  | .tof8 _ _ _ | .tof16le _ _ _ | .tof24le _ _ _ | .tof32le _ _ _ => none
  | .tof16be _ _ _ | .tof24be _ _ _ | .tof32be _ _ _ => none

/-- The registers a command reads (spec 10_state R22). -/
def sources : Instr → List Reg
  | .lis rd _ => [rd]
  | .bswap16 _ ra | .bswap32 _ ra | .fb3 _ ra | .fb4 _ ra | .fxw _ ra | .fxf _ ra => [ra]
  | .firpush _ ra | .tstamp _ ra | .estf2t _ ra => [ra]
  | .firnom ra rb | .ancadd ra rb => [ra, rb]
  | .nop | .firrst | .tsinit | .anclr | .li _ _ | .csrr _ _ => []
  | .ancnt _ | .ancf _ | .anct _ | .estrate _ => []
  | .clip8 ra rb rc | .clip16le ra rb rc | .clip24le ra rb rc | .clip32le ra rb rc => [ra, rb, rc]
  | .clip16be ra rb rc | .clip24be ra rb rc | .clip32be ra rb rc => [ra, rb, rc]
  | .tof8 ra rb rc | .tof16le ra rb rc | .tof24le ra rb rc | .tof32le ra rb rc => [ra, rb, rc]
  | .tof16be ra rb rc | .tof24be ra rb rc | .tof32be ra rb rc => [ra, rb, rc]

/-- The `CLIP*` command of a width and byte order; 8-bit samples have one variant (spec 30_encoding R97). -/
def clipInstr (wc : Width) (bo : ByteOrder) (ra rb rc : Reg) : Instr :=
  match wc, bo with
  | .w8, _ => .clip8 ra rb rc
  | .w16, .le => .clip16le ra rb rc
  | .w16, .be => .clip16be ra rb rc
  | .w24, .le => .clip24le ra rb rc
  | .w24, .be => .clip24be ra rb rc
  | .w32, .le => .clip32le ra rb rc
  | .w32, .be => .clip32be ra rb rc

/-- The `TOF*` command of a width and byte order (spec 30_encoding R97). -/
def tofInstr (wc : Width) (bo : ByteOrder) (ra rb rc : Reg) : Instr :=
  match wc, bo with
  | .w8, _ => .tof8 ra rb rc
  | .w16, .le => .tof16le ra rb rc
  | .w16, .be => .tof16be ra rb rc
  | .w24, .le => .tof24le ra rb rc
  | .w24, .be => .tof24be ra rb rc
  | .w32, .le => .tof32le ra rb rc
  | .w32, .be => .tof32be ra rb rc

/-- The bytes a command stores: start address and length (spec 20_memory R68); none for a command that
stores nothing. -/
def storedRange (s : State) : Instr → Option (Nat × Nat)
  | .clip8 ra _ rc => some ((s.reg ra).toNat, (s.reg rc).toNat)
  | .clip16le ra _ rc | .clip16be ra _ rc => some ((s.reg ra).toNat, 2 * (s.reg rc).toNat)
  | .clip24le ra _ rc | .clip24be ra _ rc => some ((s.reg ra).toNat, 3 * (s.reg rc).toNat)
  | .clip32le ra _ rc | .clip32be ra _ rc => some ((s.reg ra).toNat, 4 * (s.reg rc).toNat)
  | .tof8 ra _ rc | .tof16le ra _ rc | .tof24le ra _ rc | .tof32le ra _ rc
  | .tof16be ra _ rc | .tof24be ra _ rc | .tof32be ra _ rc =>
    some ((s.reg ra).toNat, 4 * (s.reg rc).toNat)
  | .nop | .li _ _ | .lis _ _ | .csrr _ _ | .bswap16 _ _ | .bswap32 _ _ | .fb3 _ _ | .fb4 _ _
  | .fxw _ _ | .fxf _ _ | .firrst | .firpush _ _ | .firnom _ _ | .tsinit | .tstamp _ _ | .anclr
  | .ancadd _ _ | .ancnt _ | .ancf _ | .anct _ | .estrate _ | .estf2t _ _ => none

/-- The codes of the causes a command that has decoded can raise (spec 60_exceptions R274). -/
def raisableCodes : Instr → List (BitVec 8)
  | .nop | .li _ _ | .lis _ _ | .bswap16 _ _ | .bswap32 _ _ | .fxw _ _ | .fxf _ _ => []
  | .firrst | .firpush _ _ | .tsinit | .anclr | .ancadd _ _ | .ancnt _ => []
  | .csrr _ _ => [10]
  | .fb3 _ _ | .fb4 _ _ => [2]
  | .clip8 _ _ _ | .clip16le _ _ _ | .clip24le _ _ _ | .clip32le _ _ _
  | .clip16be _ _ _ | .clip24be _ _ _ | .clip32be _ _ _ => [2, 3, 4]
  | .tof8 _ _ _ | .tof16le _ _ _ | .tof24le _ _ _ | .tof32le _ _ _
  | .tof16be _ _ _ | .tof24be _ _ _ | .tof32be _ _ _ => [2, 3]
  | .firnom _ _ => [5, 6]
  | .tstamp _ _ => [8, 7, 6]
  | .ancf _ | .anct _ => [9]
  | .estrate _ | .estf2t _ _ => [9, 6]

/-- The rational value of a finite binary32 word, none for an infinity or a NaN (spec 00_scope R12). It is
written from the format alone, beside `f32val`, so that the integer arithmetic of the model can be held
against it. -/
def f32Rat (w : FloatWord) : Option ℚ :=
  let sign : ℚ := if w.getLsbD 31 then -1 else 1
  let e := (w.extractLsb' 23 8).toNat
  let f := (w.extractLsb' 0 23).toNat
  if e = 255 then none
  else if e = 0 then some (sign * ((f : ℚ) / 2 ^ 23) * (2 : ℚ) ^ (-126 : ℤ))
  else some (sign * (1 + (f : ℚ) / 2 ^ 23) * (2 : ℚ) ^ ((e : ℤ) - 127))

/-- The word is a NaN: exponent 255, fraction not zero (spec 00_scope R12). -/
def isNaN (w : FloatWord) : Bool :=
  w.extractLsb' 23 8 == 255#8 && w.extractLsb' 0 23 != 0#23

/-- `trunc(q)` (spec 00_scope R8). -/
def truncRat (q : ℚ) : ℤ := if 0 ≤ q then ⌊q⌋ else ⌈q⌉

/-- The upper clip `U` of a depth (spec 41_clip_convert R141). -/
def upperRat (wc : Width) : ℚ := (2 ^ (widthDepth wc - 1) - 1) / 2 ^ (widthDepth wc - 1)

/-- Clip to `[L, U]` with `L = -1` (spec 41_clip_convert R142). -/
def clipRat (wc : Width) (v : ℚ) : ℚ := if upperRat wc < v then upperRat wc else if v < -1 then -1 else v

/-- The function code of a width and byte order (spec 30_encoding R97). -/
def convFn : Width → ByteOrder → Nat
  | .w8, _ => 0
  | .w16, .le => 1
  | .w24, .le => 2
  | .w32, .le => 3
  | .w16, .be => 5
  | .w24, .be => 6
  | .w32, .be => 7

/-- The place value of byte `k` of a `B`-byte sample: the first byte is the least significant in LE, the most
significant in BE (spec 20_memory R62). -/
def placeValue (bo : ByteOrder) (B k : Nat) : Nat :=
  match bo with
  | .le => 256 ^ k
  | .be => 256 ^ (B - 1 - k)

/-- The integer sample word of `B` bytes at an address (spec 20_memory R62). -/
def sampleValue (m : Memory) (bo : ByteOrder) (B a : Nat) : Nat :=
  ∑ k ∈ Finset.range B, (m.read (a + k)).toNat * placeValue bo B k

/-- The float word at an address, least significant byte first (spec 20_memory R61). -/
def floatAt (m : Memory) (a : Nat) : FloatWord :=
  m.read (a + 3) ++ m.read (a + 2) ++ m.read (a + 1) ++ m.read a

/-- The ranges of a conversion that reads `srcLen` bytes at `d[rb]` and writes `dstLen` bytes at `d[ra]` lie
inside `MEM` (spec 20_memory R66). -/
def RangesInside (s : State) (ra rb : Reg) (srcLen dstLen : Nat) : Prop :=
  (s.reg rb).toNat + srcLen ≤ s.cfg.memSize ∧ (s.reg ra).toNat + dstLen ≤ s.cfg.memSize

/-- The ranges of a conversion share a byte (spec 20_memory R67). -/
def RangesOverlap (s : State) (ra rb : Reg) (srcLen dstLen : Nat) : Prop :=
  (0 < srcLen ∧ 0 < dstLen) ∧
    (s.reg rb).toNat < (s.reg ra).toNat + dstLen ∧ (s.reg ra).toNat < (s.reg rb).toNat + srcLen

/-- `C[0 .. 32]` as the spec prints it (spec 10_state R36). -/
def coefficientList : List Nat :=
  [1, 2, 4, 7, 10, 14, 19, 25, 31, 37, 43, 49, 54, 58, 62, 64, 64, 64, 62, 58, 54, 49, 43, 37, 31, 25, 19,
    14, 10, 7, 4, 2, 1]

/-- The sample `k` places older than the newest when `v` is pushed: the slot before, modulo 33 (spec
42_jitter_fir R181, R183). -/
def pushedSample (s : State) (v : Word64) (k : Nat) : Nat :=
  if k = 0 then v.toNat
  else (s.firdata[(s.firwp.toNat + 33 - k) % 33]'(Nat.mod_lt _ (by decide))).toNat

/-- What `push(v)` returns (spec 42_jitter_fir R181 to R183). -/
def filteredDelta (s : State) (v : Word64) : Nat :=
  if s.firiter = 0#32 then v.toNat
  else if s.firiter.toNat < 33 then (∑ k ∈ Finset.range 4, 256 * pushedSample s v k) / 1024
  else (∑ k ∈ Finset.range 33, coefficientList.getD k 0 * pushedSample s v k) / 1024

/-- The filter has ingested the sample `v`: primed at `FIRITER = 0`, else pushed (spec 42_jitter_fir R182,
R183). -/
structure Ingests (s : State) (v : Word64) (t : State) : Prop where
  primed : s.firiter = 0#32 →
    (∀ k : Fin 33, t.firdata[k] = v) ∧ t.firwp = 0#6 ∧ t.firiter = 1#32
  pushed : s.firiter ≠ 0#32 →
    (∀ k : Fin 33, t.firdata[k] = if k.val = s.firwp.toNat then v else s.firdata[k]) ∧
      t.firwp.toNat = (s.firwp.toNat + 1) % 33 ∧
      t.firiter.toNat = min (s.firiter.toNat + 1) (2 ^ 32 - 1)

/-- `num = N * SXY - SX * SY` over the anchors of a FIFO (spec 43_rate_estimator R217). -/
def fifoNum (l : List Anchor) : Int :=
  l.length * anchorSum (fun a => a.frame.toNat * a.time.toNat) l -
    anchorSum (fun a => a.frame.toNat) l * anchorSum (fun a => a.time.toNat) l

/-- `den = N * SXX - SX * SX` over the anchors of a FIFO (spec 43_rate_estimator R217). -/
def fifoDen (l : List Anchor) : Int :=
  l.length * anchorSum (fun a => a.frame.toNat * a.frame.toNat) l -
    anchorSum (fun a => a.frame.toNat) l * anchorSum (fun a => a.frame.toNat) l

/-- `W = floor((XPREC * num) / den)` over the anchors of a FIFO (spec 43_rate_estimator R218). -/
def fifoRate (xprec : Nat) (l : List Anchor) : ℤ := ⌊((xprec * fifoNum l : ℤ) : ℚ) / (fifoDen l : ℚ)⌋

/-- `T = Ta + floor(((F - Fa) * W) / XPREC)` for the newest anchor (spec 43_rate_estimator R224). -/
def fifoTime (xprec : Nat) (a : Anchor) (w : ℤ) (f : Nat) : ℤ :=
  a.time.toNat + ⌊((((f : ℤ) - a.frame.toNat) * w : ℤ) : ℚ) / (xprec : ℚ)⌋

/-- The CSR numbers that are defined (spec 44_system R254). -/
def csrDefined (n : Nat) : Bool :=
  n ≤ 0x001 || (0x010 ≤ n && n ≤ 0x015) || (0x020 ≤ n && n ≤ 0x02B) || (0x040 ≤ n && n ≤ 0x060) ||
    (0x080 ≤ n && n ≤ 0x0A0) || (0x0F0 ≤ n && n ≤ 0x0F3)

/-- Every defined CSR number with the value it reads (spec 10_state R27 to R43). -/
def csrTable (s : State) : List (Nat × Nat) :=
  [(0x000, s.status.toNat), (0x001, s.fcmd.toNat), (0x010, s.firctl.toNat), (0x011, s.firiter.toNat),
    (0x012, s.firwp.toNat), (0x013, s.firnom.toNat), (0x014, s.tsraw.toNat), (0x015, s.tsfilt.toNat),
    (0x020, s.ancn), (0x021, s.anchead.toNat)] ++
  [(0x022, s.sx.toNat % 2 ^ 64), (0x023, s.sx.toNat / 2 ^ 64), (0x024, s.sy.toNat % 2 ^ 64),
    (0x025, s.sy.toNat / 2 ^ 64), (0x026, s.sxx.toNat % 2 ^ 64), (0x027, s.sxx.toNat / 2 ^ 64 % 2 ^ 64),
    (0x028, s.sxx.toNat / 2 ^ 128), (0x029, s.sxy.toNat % 2 ^ 64),
    (0x02A, s.sxy.toNat / 2 ^ 64 % 2 ^ 64), (0x02B, s.sxy.toNat / 2 ^ 128)] ++
  [(0x0F0, 0x41554A5300000001), (0x0F1, s.cfg.aMax), (0x0F2, s.cfg.memSize), (0x0F3, s.cfg.xprec)] ++
  (List.finRange 33).map (fun k => (0x040 + k.val, s.firdata[k].toNat)) ++
  (List.finRange 33).map (fun k => (0x080 + k.val, coefficientList.getD k.val 0))

/-- The state with its oldest pending transaction taken off. -/
def State.took (s : State) (rest : List Transaction) : State := { s with input := rest }

end Sys2Proof.Machine
end

