-- ==== Sys2Proof/Certificates/Slice0/Obligations.lean ====
section
/-! DEFINITION. The statements for the provers. Each docstring names the rule of the spec it formalises. -/

open Sys2Proof Sys2Proof.Machine

/-! ## Encoding -/

/-- Spec 30_encoding R93, R94, R102: the decoder reads back every command from its word, with every operand
at every value. -/
def Obligations.DecodeEncodeRoundTrip : Prop :=
  ∀ i : Instr, decode (encode i) = .ok i

/-- Spec 30_encoding R91, R93: a word the decoder accepts is the word of the command it reads, so the model's
`FCMD`, which is the command's encoding, is the word the host issued. -/
def Obligations.DecodedWordIsItsEncoding : Prop :=
  ∀ (w : CmdWord) (i : Instr), decode w = .ok i → encode i = w

/-- Spec 30_encoding R93: a word spells the command of the one row whose mask and match accept it, no two rows
accept the same word, and a word that no row accepts spells nothing. -/
def Obligations.RowsSpellCommands : Prop :=
  (∀ r ∈ opcodeTable, ∀ w : CmdWord,
      w &&& r.mask = r.mtch ↔ ∃ i, decode w = .ok i ∧ i.mnemonic = r.mnemonic) ∧
    (∀ r ∈ opcodeTable, ∀ r' ∈ opcodeTable, ∀ w : CmdWord,
      w &&& r.mask = r.mtch → w &&& r'.mask = r'.mtch → r = r') ∧
    ∀ w : CmdWord, (∀ r ∈ opcodeTable, w &&& r.mask ≠ r.mtch) → ∃ e, decode w = .error e

/-- Words the spec writes out, decoded (spec 95_test_vectors sections 2.1, 2.2, 2.3, 2.4, 2.5). -/
def Obligations.DecodesWordsOfTheSpec : Prop :=
  decode 0x00000000#32 = .ok .nop ∧ decode 0x0110FFFF#32 = .ok (.li 1 0xFFFF) ∧
    decode 0x02301111#32 = .ok (.lis 3 0x1111) ∧ decode 0x03F00FFF#32 = .ok (.csrr 15 0xFFF) ∧
    decode 0x10A60000#32 = .ok (.bswap16 10 6) ∧ decode 0x12210000#32 = .ok (.fb3 2 1) ∧
    decode 0x20012306#32 = .ok (.clip24be 1 2 3) ∧ decode 0x21012301#32 = .ok (.tof16le 1 2 3) ∧
    decode 0x32012000#32 = .ok (.firnom 1 2) ∧ decode 0x34210000#32 = .ok (.tstamp 2 1) ∧
    decode 0x41012000#32 = .ok (.ancadd 1 2) ∧ decode 0x46870000#32 = .ok (.estf2t 8 7)

/-! ## System commands -/

/-- Spec 44_system R251: `NOP` is the word 0 and no other, and changes nothing. -/
def Obligations.NopChangesNothing : Prop :=
  (∀ w : CmdWord, decode w = .ok .nop ↔ w = 0x00000000#32) ∧
    OtherWordsIllegal 0x00#8 (fun i => i = .nop) ∧ ∀ s : State, exec .nop s = .next s

/-- Spec 44_system R252: `LI` loads the zero-extended constant, whatever the register held. -/
def Obligations.LoadImmediateWritesConstant : Prop :=
  OtherWordsIllegal 0x01#8 (fun i => ∃ rd imm16, i = .li rd imm16) ∧
  ∀ (rd : Reg) (imm16 : BitVec 16),
    (encode (.li rd imm16)).toNat = 0x01000000 + rd.toNat * 2 ^ 20 + imm16.toNat ∧
      ∀ s : State, ∃ t, exec (.li rd imm16) s = .next t ∧
        WritesReg rd (BitVec.ofNat 64 imm16.toNat) s t

/-- Spec 44_system R253: `LIS` gives `(v * 65536 + imm16) mod 2^64`. -/
def Obligations.ShiftInsertWritesShiftedSum : Prop :=
  OtherWordsIllegal 0x02#8 (fun i => ∃ rd imm16, i = .lis rd imm16) ∧
  ∀ (rd : Reg) (imm16 : BitVec 16),
    (encode (.lis rd imm16)).toNat = 0x02000000 + rd.toNat * 2 ^ 20 + imm16.toNat ∧
      ∀ s : State, ∃ t, exec (.lis rd imm16) s = .next t ∧
        WritesReg rd (BitVec.ofNat 64 ((s.reg rd).toNat * 65536 + imm16.toNat)) s t

/-- Spec 30_encoding R101: `LI64` expands to `LI` of the most significant non-zero 16-bit chunk `c j` (`j = 0`
for the constant 0) followed by `LIS` of each chunk below it, down to `c 0`: one to four commands. Run, they
load the constant, whatever it is, and change nothing else. -/
def Obligations.LoadConstantExpansionLoadsAnyConstant : Prop :=
  ∀ (rd : Reg) (v : Word64),
    let c : Nat → BitVec 16 := fun k => BitVec.ofNat 16 (v.toNat / 65536 ^ k)
    (∃ j < 4, (∀ k < 4, j < k → c k = 0#16) ∧ (j = 0 ∨ c j ≠ 0#16) ∧
      li64 rd v = .li rd (c j) :: (List.range j).reverse.map (fun k => .lis rd (c k))) ∧
      1 ≤ (li64 rd v).length ∧ (li64 rd v).length ≤ 4 ∧
      ∀ s : State, s.faulted = false →
        ∃ t, Host.Core.run Sys2Proof.core (li64 rd v).length
            { s with input := (li64 rd v).map (fun i => Transaction.cmd (encode i)) ++ s.input } =
              .next t ∧
          WritesReg rd v s t

/-- Spec 44_system R254: `CSRR` writes the value of a defined CSR, raises `BadCsr` (code 10) for any other
number, and always reads `STATUS` as 0 when it executes between the transactions of a run. -/
def Obligations.CsrReadOrBadCsr : Prop :=
  OtherWordsIllegal 0x03#8 (fun i => ∃ rd csr, i = .csrr rd csr) ∧
  ∀ (rd : Reg) (s : State),
    (∀ csr : CsrNum, (encode (.csrr rd csr)).toNat = 0x03000000 + rd.toNat * 2 ^ 20 + csr.toNat) ∧
      (∀ n v, (n, v) ∈ csrTable s → ∃ t, exec (.csrr rd (BitVec.ofNat 12 n)) s = .next t ∧
        WritesReg rd (BitVec.ofNat 64 v) s t) ∧
      (∀ csr : CsrNum, csrDefined csr.toNat = false → RaisesCode 10 (.csrr rd csr) s) ∧
      (∀ n, csrDefined n = true ↔ ∃ v, (n, v) ∈ csrTable s) ∧
      (Inv s → s.faulted = false → ∃ t, exec (.csrr rd 0x000) s = .next t ∧ WritesReg rd 0#64 s t)

/-! ## Primitives -/

/-- Spec 40_primitives R121, R122: the byte swaps, as arithmetic on the low 16 and 32 bits. -/
def Obligations.ByteSwapsReverseLowBytes : Prop :=
  OtherWordsIllegal 0x10#8 (fun i => ∃ rd ra, i = .bswap16 rd ra) ∧
  OtherWordsIllegal 0x11#8 (fun i => ∃ rd ra, i = .bswap32 rd ra) ∧
  ∀ rd ra : Reg,
    (encode (.bswap16 rd ra)).toNat = 0x10000000 + rd.toNat * 2 ^ 20 + ra.toNat * 2 ^ 16 ∧
      (encode (.bswap32 rd ra)).toNat = 0x11000000 + rd.toNat * 2 ^ 20 + ra.toNat * 2 ^ 16 ∧
      ∀ s : State, let v := (s.reg ra).toNat
        (∃ t, exec (.bswap16 rd ra) s = .next t ∧
          WritesReg rd (BitVec.ofNat 64 (v % 256 * 256 + v / 256 % 256)) s t) ∧
        ∃ t, exec (.bswap32 rd ra) s = .next t ∧
          WritesReg rd (BitVec.ofNat 64
            (v % 256 * 2 ^ 24 + v / 2 ^ 8 % 256 * 2 ^ 16 + v / 2 ^ 16 % 256 * 2 ^ 8 + v / 2 ^ 24 % 256)) s t

/-- Spec 40_primitives R123: `FB3` decodes three little-endian bytes, shifted left by 2; `AddrRange` (code 2)
if they do not lie inside `MEM`. -/
def Obligations.FeedbackThreeBytesDecode : Prop :=
  OtherWordsIllegal 0x12#8 (fun i => ∃ rd ra, i = .fb3 rd ra) ∧
  ∀ rd ra : Reg,
    (encode (.fb3 rd ra)).toNat = 0x12000000 + rd.toNat * 2 ^ 20 + ra.toNat * 2 ^ 16 ∧
      ∀ s : State, let a := (s.reg ra).toNat
        (a + 3 ≤ s.cfg.memSize → ∃ t, exec (.fb3 rd ra) s = .next t ∧
          WritesReg rd (BitVec.ofNat 64
            (4 * ((s.mem.read a).toNat + 256 * (s.mem.read (a + 1)).toNat +
              65536 * (s.mem.read (a + 2)).toNat))) s t) ∧
        (s.cfg.memSize < a + 3 → RaisesCode 2 (.fb3 rd ra) s)

/-- Spec 40_primitives R124: `FB4` decodes four little-endian bytes as they are; `AddrRange` (code 2) if they
do not lie inside `MEM`. -/
def Obligations.FeedbackFourBytesDecode : Prop :=
  OtherWordsIllegal 0x13#8 (fun i => ∃ rd ra, i = .fb4 rd ra) ∧
  ∀ rd ra : Reg,
    (encode (.fb4 rd ra)).toNat = 0x13000000 + rd.toNat * 2 ^ 20 + ra.toNat * 2 ^ 16 ∧
      ∀ s : State, let a := (s.reg ra).toNat
        (a + 4 ≤ s.cfg.memSize → ∃ t, exec (.fb4 rd ra) s = .next t ∧
          WritesReg rd (BitVec.ofNat 64
            ((s.mem.read a).toNat + 2 ^ 8 * (s.mem.read (a + 1)).toNat +
              2 ^ 16 * (s.mem.read (a + 2)).toNat + 2 ^ 24 * (s.mem.read (a + 3)).toNat)) s t) ∧
        (s.cfg.memSize < a + 4 → RaisesCode 2 (.fb4 rd ra) s)

/-- Spec 40_primitives R125, R126: the whole part and the fraction times 1000 of the 16.16 value in the low
32 bits. -/
def Obligations.FixedPointValueSplits : Prop :=
  OtherWordsIllegal 0x14#8 (fun i => ∃ rd ra, i = .fxw rd ra) ∧
  OtherWordsIllegal 0x15#8 (fun i => ∃ rd ra, i = .fxf rd ra) ∧
  ∀ rd ra : Reg,
    (encode (.fxw rd ra)).toNat = 0x14000000 + rd.toNat * 2 ^ 20 + ra.toNat * 2 ^ 16 ∧
      (encode (.fxf rd ra)).toNat = 0x15000000 + rd.toNat * 2 ^ 20 + ra.toNat * 2 ^ 16 ∧
      ∀ s : State, let v := (s.reg ra).toNat
        (∃ t, exec (.fxw rd ra) s = .next t ∧ WritesReg rd (BitVec.ofNat 64 (v / 65536 % 65536)) s t) ∧
        ∃ t, exec (.fxf rd ra) s = .next t ∧ WritesReg rd (BitVec.ofNat 64 (v % 65536 * 1000)) s t

/-- Spec 40_primitives R127: the laws of the family, for the results the commands write. A 16.16 word is put
back together from its two parts; and for a 3-byte payload `p` that `FB3` decodes into `rd`, the commands
`FXW` and `FXF` of it give its 10 integer bits and its 14 fraction bits times 4000. -/
def Obligations.FixedPointPartsRecombine : Prop :=
  (∀ (rd ra : Reg) (s : State), (s.reg ra).toNat < 2 ^ 32 →
    ∃ t u, exec (.fxw rd ra) s = .next t ∧ exec (.fxf rd ra) s = .next u ∧
      (s.reg ra).toNat = (t.reg rd).toNat * 65536 + (u.reg rd).toNat / 1000 ∧
      1000 ∣ (u.reg rd).toNat) ∧
    ∀ (rd ra : Reg) (s : State), (s.reg ra).toNat + 3 ≤ s.cfg.memSize →
      ∃ f t u, exec (.fb3 rd ra) s = .next f ∧ exec (.fxw rd rd) f = .next t ∧
        exec (.fxf rd rd) f = .next u ∧
        let p := sampleValue s.mem .le 3 (s.reg ra).toNat
        (f.reg rd).toNat ≤ 2 ^ 26 - 4 ∧ (t.reg rd).toNat = p / 2 ^ 14 ∧
          (u.reg rd).toNat = p % 2 ^ 14 * 4 * 1000

/-! ## Clip and convert -/

/-- Spec 41_clip_convert R143, R150 to R156: a `CLIP*` command whose ranges lie inside `MEM` and do not
overlap, and whose source holds no NaN, writes `clipconv` of each float to its place in its byte order, and
changes nothing else. -/
def Obligations.ForwardConversionWritesSamples : Prop :=
  ∀ (wc : Width) (bo : ByteOrder) (ra rb rc : Reg),
    (encode (clipInstr wc bo ra rb rc)).toNat =
        0x20000000 + convFn wc bo + ra.toNat * 2 ^ 16 + rb.toNat * 2 ^ 12 + rc.toNat * 2 ^ 8 ∧
      ∀ s : State, let n := (s.reg rc).toNat
        let src := (s.reg rb).toNat
        let dst := (s.reg ra).toNat
        let B := widthBytes wc
        s.mem.wf → RangesInside s ra rb (4 * n) (B * n) → ¬ RangesOverlap s ra rb (4 * n) (B * n) →
        (∀ i < n, isNaN (floatAt s.mem (src + 4 * i)) = false) →
        ∃ t, exec (clipInstr wc bo ra rb rc) s = .next t ∧
          (∀ i < n, ∃ x, clipconv wc (floatAt s.mem (src + 4 * i)) = some x ∧
            sampleValue t.mem bo B (dst + B * i) = x) ∧
          SameMemOutside dst (B * n) s t ∧ SameRegs s t ∧ SameFault s t ∧ SameFilter s t ∧
          SameAnchors s t ∧ SameHost s t

/-- Spec 41_clip_convert R143, R144, 20_memory R66, R67, 60_exceptions R266: the faults of a `CLIP*` command
in their order: `AddrRange` (2), `Overlap` (3), `InvalidOperand` (4) for a NaN anywhere in the source. -/
def Obligations.ForwardConversionFaults : Prop :=
  ∀ (wc : Width) (bo : ByteOrder) (ra rb rc : Reg) (s : State),
    let n := (s.reg rc).toNat
    let src := (s.reg rb).toNat
    let B := widthBytes wc
    let i := clipInstr wc bo ra rb rc
    (¬ RangesInside s ra rb (4 * n) (B * n) → RaisesCode 2 i s) ∧
      (RangesInside s ra rb (4 * n) (B * n) → RangesOverlap s ra rb (4 * n) (B * n) →
        RaisesCode 3 i s) ∧
      (RangesInside s ra rb (4 * n) (B * n) → ¬ RangesOverlap s ra rb (4 * n) (B * n) →
        (∃ j < n, isNaN (floatAt s.mem (src + 4 * j)) = true) → RaisesCode 4 i s)

/-- Spec 41_clip_convert R159, R160 to R166: a `TOF*` command whose ranges lie inside `MEM` and do not overlap
writes `tofloat` of each sample as a little-endian float, and changes nothing else. -/
def Obligations.InverseConversionWritesFloats : Prop :=
  ∀ (wc : Width) (bo : ByteOrder) (ra rb rc : Reg),
    (encode (tofInstr wc bo ra rb rc)).toNat =
        0x21000000 + convFn wc bo + ra.toNat * 2 ^ 16 + rb.toNat * 2 ^ 12 + rc.toNat * 2 ^ 8 ∧
      ∀ s : State, let n := (s.reg rc).toNat
        let src := (s.reg rb).toNat
        let dst := (s.reg ra).toNat
        let B := widthBytes wc
        s.mem.wf → RangesInside s ra rb (B * n) (4 * n) → ¬ RangesOverlap s ra rb (B * n) (4 * n) →
        ∃ t, exec (tofInstr wc bo ra rb rc) s = .next t ∧
          (∀ i < n, floatAt t.mem (dst + 4 * i) = tofloat wc (sampleValue s.mem bo B (src + B * i))) ∧
          SameMemOutside dst (4 * n) s t ∧ SameRegs s t ∧ SameFault s t ∧ SameFilter s t ∧
          SameAnchors s t ∧ SameHost s t

/-- Spec 41_clip_convert R159, 20_memory R66, R67: the faults of a `TOF*` command in their order. -/
def Obligations.InverseConversionFaults : Prop :=
  ∀ (wc : Width) (bo : ByteOrder) (ra rb rc : Reg) (s : State),
    let n := (s.reg rc).toNat
    let B := widthBytes wc
    let i := tofInstr wc bo ra rb rc
    (¬ RangesInside s ra rb (B * n) (4 * n) → RaisesCode 2 i s) ∧
      (RangesInside s ra rb (B * n) (4 * n) → RangesOverlap s ra rb (B * n) (4 * n) →
        RaisesCode 3 i s)

/-- Spec 41_clip_convert R142: the model's whole-number arithmetic for `clipconv` is the spec's arithmetic on
exact rationals: clip to `[L, U]`, scale, truncate toward zero, take the two's-complement word, and for 24 bits
its top three bytes; infinities clip, and a NaN has no result. -/
def Obligations.ClipConvertIsExactArithmetic : Prop :=
  ∀ (wc : Width) (w : FloatWord),
    (isNaN w = true → clipconv wc w = none) ∧
      (w = 0x7F800000#32 → clipconv wc w = some (2 ^ (widthDepth wc - 1) - 1)) ∧
      (w = 0xFF800000#32 → clipconv wc w = some (2 ^ (widthDepth wc - 1))) ∧
      ∀ v : ℚ, f32Rat w = some v →
        clipconv wc w =
          some (if wc = .w24 then (truncRat (clipRat wc v * 2 ^ 31) % 2 ^ 32).toNat / 256
            else (truncRat (clipRat wc v * 2 ^ (widthDepth wc - 1)) % 2 ^ widthDepth wc).toNat)

/-- Spec 41_clip_convert R170: an input at or above the upper clip gives the largest positive integer, one at
or below -1 the minimum integer; the infinities among them. -/
def Obligations.SaturationGivesExtremeIntegers : Prop :=
  ∀ wc : Width,
    (∀ (w : FloatWord) (v : ℚ), f32Rat w = some v →
      (upperRat wc ≤ v → clipconv wc w = some (2 ^ (widthDepth wc - 1) - 1)) ∧
        (v ≤ -1 → clipconv wc w = some (2 ^ (widthDepth wc - 1)))) ∧
      clipconv wc 0x7F800000#32 = some (2 ^ (widthDepth wc - 1) - 1) ∧
      clipconv wc 0xFF800000#32 = some (2 ^ (widthDepth wc - 1))

/-- Spec 41_clip_convert R158: at 8, 16 and 24 bits the inverse is exact, at every depth zero gives positive
zero, and the result is never an infinity, a NaN or a subnormal. -/
def Obligations.InverseIsExactUpTo24Bits : Prop :=
  ∀ (wc : Width) (u : Nat), u < 2 ^ widthDepth wc →
    (wc ≠ .w32 → f32Rat (tofloat wc u) =
      some ((if u < 2 ^ (widthDepth wc - 1) then (u : ℚ) else (u : ℚ) - 2 ^ widthDepth wc) /
        2 ^ (widthDepth wc - 1))) ∧
      (u = 0 ↔ tofloat wc u = 0#32) ∧
      (u ≠ 0 → 0 < ((tofloat wc u).extractLsb' 23 8).toNat ∧
        ((tofloat wc u).extractLsb' 23 8).toNat < 255)

/-- Spec 41_clip_convert R158, 00_scope R12: at 32 bits the inverse is the nearest binary32 value; where
another value is as near, the fraction taken is even. -/
def Obligations.InverseRoundsToNearestEvenAt32Bits : Prop :=
  ∀ u : Nat, u < 2 ^ 32 →
    let x : ℚ := (if u < 2 ^ 31 then (u : ℚ) else (u : ℚ) - 2 ^ 32) / 2 ^ 31
    ∃ q, f32Rat (tofloat .w32 u) = some q ∧
      ∀ (w : FloatWord) (q' : ℚ), f32Rat w = some q' →
        |q - x| ≤ |q' - x| ∧
          (q' ≠ q → |q' - x| = |q - x| → (tofloat .w32 u).getLsbD 0 = false)

/-- Spec 41_clip_convert R171: for a float in `[-1, 1]` and any depth `d`, 32 bits included, the round trip is
within `2^(1-d)`; and at 32 bits it returns a float of magnitude at least `2^-8` unchanged. -/
def Obligations.ConversionRoundTripIsClose : Prop :=
  ∀ (wc : Width) (w : FloatWord) (v : ℚ), f32Rat w = some v → -1 ≤ v → v ≤ 1 →
    (∃ x q, clipconv wc w = some x ∧ f32Rat (tofloat wc x) = some q ∧
      |q - v| ≤ 2 / 2 ^ widthDepth wc) ∧
      (wc = .w32 → 1 / 2 ^ 8 ≤ |v| → ∃ x, clipconv wc w = some x ∧ tofloat wc x = w)

/-! ## Jitter filter and timestamps -/

/-- Spec 42_jitter_fir R184: `FIRRST` sets `FIRITER` to 0 and changes nothing else. -/
def Obligations.FilterResetClearsIteration : Prop :=
  OtherWordsIllegal 0x30#8 (fun i => i = .firrst) ∧ encode .firrst = 0x30000000#32 ∧
    ∀ s : State, ∃ t, exec .firrst s = .next t ∧ t.firiter = 0#32 ∧ t.firwp = s.firwp ∧
      t.firdata = s.firdata ∧ SameStamps s t ∧ SameRegs s t ∧ SameFault s t ∧ SameAnchors s t ∧
      SameMem s t ∧ SameHost s t

/-- Spec 42_jitter_fir R187: `TSINIT` sets `FIRCTL.INIT` and changes nothing else. -/
def Obligations.TimestampInitArmsPriming : Prop :=
  OtherWordsIllegal 0x33#8 (fun i => i = .tsinit) ∧ encode .tsinit = 0x33000000#32 ∧
    ∀ s : State, ∃ t, exec .tsinit s = .next t ∧ t.initArmed = true ∧ t.nomValid = s.nomValid ∧
      t.firiter = s.firiter ∧ t.firwp = s.firwp ∧ t.firdata = s.firdata ∧ t.firnom = s.firnom ∧
      t.tsraw = s.tsraw ∧ t.tsfilt = s.tsfilt ∧ SameRegs s t ∧ SameFault s t ∧ SameAnchors s t ∧
      SameMem s t ∧ SameHost s t

/-- Spec 42_jitter_fir R181, R182, R183, R185: `FIRPUSH` ingests the sample and returns the exact weighted sum
divided by 1024, by the start-up weights while `FIRITER` is 1 to 32 and by the 33 coefficients from then on;
at `FIRITER = 0` it primes and returns the sample. -/
def Obligations.FilterPushReturnsWeightedSum : Prop :=
  OtherWordsIllegal 0x31#8 (fun i => ∃ rd ra, i = .firpush rd ra) ∧
  ∀ rd ra : Reg,
    (encode (.firpush rd ra)).toNat = 0x31000000 + rd.toNat * 2 ^ 20 + ra.toNat * 2 ^ 16 ∧
      ∀ s : State, s.firwp.toNat < 33 →
        ∃ t, exec (.firpush rd ra) s = .next t ∧ (t.reg rd).toNat = filteredDelta s (s.reg ra) ∧
          Ingests s (s.reg ra) t ∧ SameRegsBut rd s t ∧ SameStamps s t ∧ SameFault s t ∧
          SameAnchors s t ∧ SameMem s t ∧ SameHost s t

/-- Spec 42_jitter_fir R190, first sentence: the output lies between the least and the greatest of the samples
it weighs, 4 for the start-up filter and 33 for the full one. -/
def Obligations.FilterOutputLiesAmongSamples : Prop :=
  ∀ (rd ra : Reg) (s : State) (lo hi : Nat), s.firwp.toNat < 33 → s.firiter ≠ 0#32 →
    (∀ k < if s.firiter.toNat < 33 then 4 else 33,
      lo ≤ pushedSample s (s.reg ra) k ∧ pushedSample s (s.reg ra) k ≤ hi) →
    ∃ t, exec (.firpush rd ra) s = .next t ∧ lo ≤ (t.reg rd).toNat ∧ (t.reg rd).toNat ≤ hi

/-- Spec 42_jitter_fir R186: `FIRNOM` stores `floor(10^9 * frames / rate)` and sets `NOMV`; a rate of 0 raises
`DivideByZero` (5), a quotient of `2^64` or more `ResultRange` (6). -/
def Obligations.NominalDeltaIsStored : Prop :=
  OtherWordsIllegal 0x32#8 (fun i => ∃ ra rb, i = .firnom ra rb) ∧
  ∀ ra rb : Reg,
    (encode (.firnom ra rb)).toNat = 0x32000000 + ra.toNat * 2 ^ 16 + rb.toNat * 2 ^ 12 ∧
      ∀ s : State, let frames := (s.reg ra).toNat
        let rate := (s.reg rb).toNat
        (rate = 0 → RaisesCode 5 (.firnom ra rb) s) ∧
        (rate ≠ 0 → 2 ^ 64 ≤ ⌊(10 ^ 9 * frames : ℚ) / rate⌋ → RaisesCode 6 (.firnom ra rb) s) ∧
        (rate ≠ 0 → ⌊(10 ^ 9 * frames : ℚ) / rate⌋ < 2 ^ 64 →
          ∃ t, exec (.firnom ra rb) s = .next t ∧
            (t.firnom.toNat : ℤ) = ⌊(10 ^ 9 * frames : ℚ) / rate⌋ ∧ t.nomValid = true ∧
            t.initArmed = s.initArmed ∧ t.firiter = s.firiter ∧ t.firwp = s.firwp ∧
            t.firdata = s.firdata ∧ t.tsraw = s.tsraw ∧ t.tsfilt = s.tsfilt ∧ SameRegs s t ∧
            SameFault s t ∧ SameAnchors s t ∧ SameMem s t ∧ SameHost s t)

/-- Spec 42_jitter_fir R188, the priming branch: `TSTAMP` with `INIT = 1` raises `NotConfigured` (8) if no
nominal delta was stored; else it primes the filter with `FIRNOM`, takes the raw timestamp as both previous
values and returns it. -/
def Obligations.TimestampPrimes : Prop :=
  ∀ (rd ra : Reg) (s : State), s.initArmed = true →
    (s.nomValid = false → RaisesCode 8 (.tstamp rd ra) s) ∧
      (s.nomValid = true →
        ∃ t, exec (.tstamp rd ra) s = .next t ∧ t.reg rd = s.reg ra ∧ t.tsraw = s.reg ra ∧
          t.tsfilt = s.reg ra ∧ t.initArmed = false ∧ t.nomValid = true ∧
          (∀ k : Fin 33, t.firdata[k] = s.firnom) ∧ t.firwp = 0#6 ∧ t.firiter = 1#32 ∧
          t.firnom = s.firnom ∧ SameRegsBut rd s t ∧ SameFault s t ∧ SameAnchors s t ∧ SameMem s t ∧
          SameHost s t)

/-- Spec 42_jitter_fir R188, the filtering branch: `TSTAMP` with `INIT = 0` raises `RawRegression` (7) for a
raw timestamp below the previous one and `ResultRange` (6) if the filtered timestamp does not fit; else it
ingests the delta and returns the previous filtered timestamp plus the filtered delta. -/
def Obligations.TimestampFilters : Prop :=
  ∀ (rd ra : Reg) (s : State), s.initArmed = false → s.firwp.toNat < 33 →
    let raw := s.reg ra
    let delta := BitVec.ofNat 64 (raw.toNat - s.tsraw.toNat)
    (raw.toNat < s.tsraw.toNat → RaisesCode 7 (.tstamp rd ra) s) ∧
      (s.tsraw.toNat ≤ raw.toNat → 2 ^ 64 ≤ s.tsfilt.toNat + filteredDelta s delta →
        RaisesCode 6 (.tstamp rd ra) s) ∧
      (s.tsraw.toNat ≤ raw.toNat → s.tsfilt.toNat + filteredDelta s delta < 2 ^ 64 →
        ∃ t, exec (.tstamp rd ra) s = .next t ∧
          (t.reg rd).toNat = s.tsfilt.toNat + filteredDelta s delta ∧ t.tsraw = raw ∧
          t.tsfilt = t.reg rd ∧ Ingests s delta t ∧ t.firctl = s.firctl ∧ t.firnom = s.firnom ∧
          SameRegsBut rd s t ∧ SameFault s t ∧ SameAnchors s t ∧ SameMem s t ∧ SameHost s t)

/-- Spec 42_jitter_fir R189: along any run with no `RESET` and no `TSINIT` that starts with the filter primed,
neither the filtered nor the raw timestamp ever goes back. -/
def Obligations.TimestampsNeverRegress : Prop :=
  ∀ (n : Nat) (s t : State), s.initArmed = false →
    (∀ x ∈ s.input, x ≠ .reset ∧ x ≠ .cmd (encode .tsinit)) →
    Host.Core.run Sys2Proof.core n s = .next t →
    t.initArmed = false ∧ s.tsfilt.toNat ≤ t.tsfilt.toNat ∧ s.tsraw.toNat ≤ t.tsraw.toNat

/-- Spec 10_state R29: `INIT` is set only by `TSINIT` and reset and cleared only by a `TSTAMP`, which has a
nominal delta; `NOMV` is set only by `FIRNOM` and cleared only by reset. -/
def Obligations.ConfigurationBitsChangeOnlyByTheirCommands : Prop :=
  ∀ s t : State, step s = .next t →
    (s.initArmed = false → t.initArmed = true → ∃ rest,
      s.input = .reset :: rest ∨ s.faulted = false ∧ s.input = .cmd (encode .tsinit) :: rest) ∧
      (s.initArmed = true → t.initArmed = false → ∃ rd ra rest,
        s.faulted = false ∧ s.nomValid = true ∧ s.input = .cmd (encode (.tstamp rd ra)) :: rest) ∧
      (s.nomValid = false → t.nomValid = true → ∃ ra rb rest,
        s.faulted = false ∧ s.input = .cmd (encode (.firnom ra rb)) :: rest) ∧
      (s.nomValid = true → t.nomValid = false → ∃ rest, s.input = .reset :: rest)

/-- Spec 42_jitter_fir R193, R190: with every slot at the period and raw timestamps one period apart, `TSTAMP`
returns its raw operand, and the state stays so. -/
def Obligations.ConstantPeriodReturnsRaw : Prop :=
  ∀ (rd ra : Reg) (s : State) (period : Word64), s.initArmed = false → s.firwp.toNat < 33 →
    s.firiter ≠ 0#32 → (∀ k : Fin 33, s.firdata[k] = period) → s.tsfilt = s.tsraw →
    (s.reg ra).toNat = s.tsraw.toNat + period.toNat →
    ∃ t, exec (.tstamp rd ra) s = .next t ∧ t.reg rd = s.reg ra ∧ t.tsraw = s.reg ra ∧
      t.tsfilt = s.reg ra ∧ t.initArmed = false ∧ t.firwp.toNat < 33 ∧ t.firiter ≠ 0#32 ∧
      ∀ k : Fin 33, t.firdata[k] = period

/-! ## Anchors and the rate -/

/-- Spec 43_rate_estimator R212: `ANCLR` empties the FIFO, clears the sums, and changes nothing else. -/
def Obligations.AnchorClearEmptiesFifo : Prop :=
  OtherWordsIllegal 0x40#8 (fun i => i = .anclr) ∧ encode .anclr = 0x40000000#32 ∧
    ∀ s : State, ∃ t, exec .anclr s = .next t ∧ t.ancn = 0 ∧ t.anchead = 0#12 ∧ t.sx = 0#76 ∧
      t.sy = 0#76 ∧ t.sxx = 0#140 ∧ t.sxy = 0#140 ∧ SameFilter s t ∧ SameRegs s t ∧ SameFault s t ∧
      SameMem s t ∧ SameHost s t

/-- Spec 43_rate_estimator R213: `ANCADD` appends the anchor and adds its terms to the sums; at capacity it
first drops the oldest, takes its terms out, and moves `ANCHEAD` on. The sums are exact: no wrap. The anchor
lies in slot `(ANCHEAD + ANCN) mod A_MAX`, and every other slot keeps what it held (10_state R41). -/
def Obligations.AnchorAddUpdatesFifoAndSums : Prop :=
  OtherWordsIllegal 0x41#8 (fun i => ∃ ra rb, i = .ancadd ra rb) ∧
  ∀ ra rb : Reg,
    (encode (.ancadd ra rb)).toNat = 0x41000000 + ra.toNat * 2 ^ 16 + rb.toNat * 2 ^ 12 ∧
      ∀ s : State, Inv s → let x := (s.reg ra).toNat
        let y := (s.reg rb).toNat
        ∃ t, exec (.ancadd ra rb) s = .next t ∧
          (s.ancn < s.cfg.aMax → t.anchors = s.anchors ++ [⟨s.reg ra, s.reg rb⟩] ∧
            t.anchead = s.anchead ∧ t.sx.toNat = s.sx.toNat + x ∧ t.sy.toNat = s.sy.toNat + y ∧
            t.sxx.toNat = s.sxx.toNat + x * x ∧ t.sxy.toNat = s.sxy.toNat + x * y) ∧
          (∀ o rest, s.ancn = s.cfg.aMax → s.anchors = o :: rest →
            t.anchors = rest ++ [⟨s.reg ra, s.reg rb⟩] ∧
            t.anchead.toNat = (s.anchead.toNat + 1) % s.cfg.aMax ∧
            t.sx.toNat + o.frame.toNat = s.sx.toNat + x ∧
            t.sy.toNat + o.time.toNat = s.sy.toNat + y ∧
            t.sxx.toNat + o.frame.toNat * o.frame.toNat = s.sxx.toNat + x * x ∧
            t.sxy.toNat + o.frame.toNat * o.time.toNat = s.sxy.toNat + x * y) ∧
          (∀ k < s.cfg.aMax,
            t.slot k = if k = (s.anchead.toNat + s.ancn) % s.cfg.aMax then some ⟨s.reg ra, s.reg rb⟩
              else s.slot k) ∧
          SameFilter s t ∧ SameRegs s t ∧ SameFault s t ∧ SameMem s t ∧ SameHost s t

/-- Spec 43_rate_estimator R214: `ANCNT` reads the anchor count. -/
def Obligations.AnchorCountIsRead : Prop :=
  OtherWordsIllegal 0x42#8 (fun i => ∃ rd, i = .ancnt rd) ∧
  ∀ rd : Reg, (encode (.ancnt rd)).toNat = 0x42000000 + rd.toNat * 2 ^ 20 ∧
    ∀ s : State, ∃ t, exec (.ancnt rd) s = .next t ∧ WritesReg rd (BitVec.ofNat 64 s.ancn) s t

/-- Spec 43_rate_estimator R215, R216: `ANCF` and `ANCT` read the newest anchor; an empty FIFO raises
`EstUnderdetermined` (9). -/
def Obligations.ReferenceAnchorIsNewest : Prop :=
  OtherWordsIllegal 0x43#8 (fun i => ∃ rd, i = .ancf rd) ∧
  OtherWordsIllegal 0x44#8 (fun i => ∃ rd, i = .anct rd) ∧
  ∀ rd : Reg,
    (encode (.ancf rd)).toNat = 0x43000000 + rd.toNat * 2 ^ 20 ∧
      (encode (.anct rd)).toNat = 0x44000000 + rd.toNat * 2 ^ 20 ∧
      ∀ s : State,
        (s.anchors = [] → RaisesCode 9 (.ancf rd) s ∧ RaisesCode 9 (.anct rd) s) ∧
        ∀ older a, s.anchors = older ++ [a] →
          (∃ t, exec (.ancf rd) s = .next t ∧ WritesReg rd a.frame s t) ∧
          ∃ t, exec (.anct rd) s = .next t ∧ WritesReg rd a.time s t

/-- Spec 43_rate_estimator R217, R218, R221: `ESTRATE` writes `floor(XPREC * num / den)`; fewer than two
anchors or `den = 0` raise `EstUnderdetermined` (9), a rate below 0 or of `2^64` or more `ResultRange` (6). -/
def Obligations.RateEstimateIsLeastSquaresSlope : Prop :=
  OtherWordsIllegal 0x45#8 (fun i => ∃ rd, i = .estrate rd) ∧
  ∀ rd : Reg, (encode (.estrate rd)).toNat = 0x45000000 + rd.toNat * 2 ^ 20 ∧
    ∀ s : State, Inv s → let w := fifoRate s.cfg.xprec s.anchors
      (s.ancn < 2 ∨ fifoDen s.anchors = 0 → RaisesCode 9 (.estrate rd) s) ∧
      (2 ≤ s.ancn → fifoDen s.anchors ≠ 0 → (w < 0 ∨ 2 ^ 64 ≤ w) → RaisesCode 6 (.estrate rd) s) ∧
      (2 ≤ s.ancn → fifoDen s.anchors ≠ 0 → 0 ≤ w → w < 2 ^ 64 →
        ∃ t, exec (.estrate rd) s = .next t ∧ WritesReg rd (BitVec.ofInt 64 w) s t)

/-- Spec 43_rate_estimator R224, R225: `ESTF2T` writes the newest anchor's time plus the floor of the distance
times the rate over `XPREC`, after the faults of `ESTRATE`; a time that does not fit raises `ResultRange`. -/
def Obligations.FrameQueryExtrapolatesFromNewest : Prop :=
  OtherWordsIllegal 0x46#8 (fun i => ∃ rd ra, i = .estf2t rd ra) ∧
  ∀ rd ra : Reg, (encode (.estf2t rd ra)).toNat = 0x46000000 + rd.toNat * 2 ^ 20 + ra.toNat * 2 ^ 16 ∧
    ∀ s : State, Inv s → let w := fifoRate s.cfg.xprec s.anchors
      (s.ancn < 2 ∨ fifoDen s.anchors = 0 → RaisesCode 9 (.estf2t rd ra) s) ∧
      (2 ≤ s.ancn → fifoDen s.anchors ≠ 0 → (w < 0 ∨ 2 ^ 64 ≤ w) → RaisesCode 6 (.estf2t rd ra) s) ∧
      ∀ older a, s.anchors = older ++ [a] → 2 ≤ s.ancn → fifoDen s.anchors ≠ 0 → 0 ≤ w → w < 2 ^ 64 →
        let time := fifoTime s.cfg.xprec a w (s.reg ra).toNat
        ((time < 0 ∨ 2 ^ 64 ≤ time) → RaisesCode 6 (.estf2t rd ra) s) ∧
        (0 ≤ time → time < 2 ^ 64 →
          ∃ t, exec (.estf2t rd ra) s = .next t ∧ WritesReg rd (BitVec.ofInt 64 time) s t)

/-- Spec 43_rate_estimator R217: `den` is never negative, it is 0 exactly if there is at most one anchor or
every anchor has the same frame number, and `num` and `den` are below `2^152`. -/
def Obligations.DenominatorVanishesOnlyOnEqualFrames : Prop :=
  ∀ s : State, Inv s →
    0 ≤ s.den ∧ s.den < 2 ^ 152 ∧ |s.num| < 2 ^ 152 ∧
      (s.den = 0 ↔ s.ancn ≤ 1 ∨ ∀ a ∈ s.anchors, ∀ b ∈ s.anchors, a.frame = b.frame)

/-- Spec 43_rate_estimator R226 (a): if the anchors lie on a line of slope `p / q ≥ 0` and two frame numbers
differ, `ESTRATE` returns `floor(XPREC * p / q)`, if that fits. -/
def Obligations.CollinearAnchorsGiveTheirSlope : Prop :=
  ∀ (rd : Reg) (s : State) (p q c : ℤ), Inv s → 0 ≤ p → 0 < q →
    (∀ a ∈ s.anchors, q * a.time.toNat = c + p * a.frame.toNat) →
    (∃ a ∈ s.anchors, ∃ b ∈ s.anchors, a.frame ≠ b.frame) →
    ⌊((s.cfg.xprec * p : ℤ) : ℚ) / q⌋ < 2 ^ 64 →
    ∃ t, exec (.estrate rd) s = .next t ∧
      WritesReg rd (BitVec.ofInt 64 ⌊((s.cfg.xprec * p : ℤ) : ℚ) / q⌋) s t

/-- Spec 43_rate_estimator R226 (b): the estimate depends only on the multiset of anchors, and the query on
that and on which anchor is newest: two states that agree so far give the same result and the same status. -/
def Obligations.EstimatesIgnoreAnchorOrder : Prop :=
  ∀ (rd ra : Reg) (s s' : State), Inv s → Inv s' → s.cfg = s'.cfg → s.status = s'.status →
    s.regs = s'.regs → s.anchors.Perm s'.anchors →
    ∃ t t', exec (.estrate rd) s = .next t ∧ exec (.estrate rd) s' = .next t' ∧
      t.regs = t'.regs ∧ t.status = t'.status ∧
      (s.anchors.getLast? = s'.anchors.getLast? →
        ∃ u u', exec (.estf2t rd ra) s = .next u ∧ exec (.estf2t rd ra) s' = .next u' ∧
          u.regs = u'.regs ∧ u.status = u'.status)

/-- Spec 43_rate_estimator R226 (c): for fixed FIFO content `ESTF2T` is non-decreasing in the frame number. -/
def Obligations.FrameQueryIsMonotone : Prop :=
  ∀ (rd ra : Reg) (s : State) (f : Word64) (t u : State), s.faulted = false →
    (s.reg ra).toNat ≤ f.toNat →
    exec (.estf2t rd ra) s = .next t → t.faulted = false →
    exec (.estf2t rd ra) (s.setReg ra f) = .next u → u.faulted = false →
    (t.reg rd).toNat ≤ (u.reg rd).toNat

/-- Spec 43_rate_estimator R226 (d): after an `ANCLR` and any number of `ANCADD`s the FIFO holds exactly the
last `A_MAX` anchors, and `ANCHEAD` counts the evictions modulo `A_MAX`. -/
def Obligations.FifoKeepsTheLastAnchors : Prop :=
  ∀ (l : List Anchor) (s : State) (rest : List Transaction), s.cfg.Valid → s.faulted = false →
    s.input = .cmd (encode .anclr) ::
      (l.flatMap fun a => [.regwr 1 a.frame, .regwr 2 a.time, .cmd (encode (.ancadd 1 2))]) ++ rest →
    ∃ t, Host.Core.run Sys2Proof.core (1 + 3 * l.length) s = .next t ∧ t.input = rest ∧
      t.anchors = l.drop (l.length - s.cfg.aMax) ∧
      t.anchead.toNat = (l.length - s.cfg.aMax) % s.cfg.aMax

/-! ## Host transactions, faults, reset -/

/-- Spec 60_exceptions R270, `REGWR` and `REGRD`: the host writes and reads any operand register, faulted or
not. That a value is returned by joining the list of replies is the model's choice (log 5). -/
def Obligations.HostAccessesRegisters : Prop :=
  ∀ (s : State) (rest : List Transaction) (i : Reg),
    (∀ v, s.input = .regwr i v :: rest →
      ∃ t, step s = .next t ∧ WritesReg i v (s.took rest) t) ∧
      (s.input = .regrd i :: rest →
        step s = .next { s with input := rest, output := s.output ++ [.reg (s.reg i)] })

/-- Spec 60_exceptions R270, `MEMWR` and `MEMRD`: the host writes and reads bytes of `MEM`, faulted or not; a
write that does not lie inside `MEM` is ignored entirely, a read outside returns zero bytes. That a read that
lies only partly inside returns zero bytes is the model's reading (log 6), and that bytes are returned by joining
the list of replies its choice (log 5). -/
def Obligations.HostAccessesMemory : Prop :=
  ∀ (s : State) (rest : List Transaction) (a : Nat), s.mem.wf →
    (∀ bs, s.input = .memwr a bs :: rest → a + bs.length ≤ s.cfg.memSize →
      ∃ t, step s = .next t ∧ (∀ k : Fin bs.length, t.mem.read (a + k) = bs[k]) ∧
        SameMemOutside a bs.length s t ∧ SameRegs s t ∧ SameFault s t ∧ SameFilter s t ∧
        SameAnchors s t ∧ SameHost (s.took rest) t) ∧
      (∀ bs, s.input = .memwr a bs :: rest → s.cfg.memSize < a + bs.length →
        step s = .next (s.took rest)) ∧
      (∀ n, s.input = .memrd a n :: rest → a + n ≤ s.cfg.memSize →
        ∃ bs, bs.length = n ∧ (∀ k : Fin bs.length, bs[k] = s.mem.read (a + k)) ∧
          step s = .next { s with input := rest, output := s.output ++ [.mem bs] }) ∧
      (∀ n, s.input = .memrd a n :: rest → s.cfg.memSize < a + n →
        step s = .next { s with input := rest, output := s.output ++ [.mem (List.replicate n 0#8)] })

/-- Spec 60_exceptions R270, `CSRRD`: the host reads any defined CSR, faulted or not, and 0 for an undefined
number. That a value is returned by joining the list of replies is the model's choice (log 5). -/
def Obligations.HostReadsControlRegisters : Prop :=
  ∀ (s : State) (rest : List Transaction) (c : CsrNum), s.input = .csrrd c :: rest →
    (∀ v, (c.toNat, v) ∈ csrTable s →
      step s = .next { s with input := rest, output := s.output ++ [.csr (BitVec.ofNat 64 v)] }) ∧
      (csrDefined c.toNat = false →
        step s = .next { s with input := rest, output := s.output ++ [.csr 0#64] })

/-- Spec 70_reset_and_hazards R300: the transaction `RESET` puts every register and CSR at its reset value and
does not write `MEM`. That the parameters, the pending transactions and the replies stay is the model's choice
(log 7). -/
def Obligations.ResetRestoresEveryRegister : Prop :=
  ∀ (s : State) (rest : List Transaction), s.input = .reset :: rest →
    ∃ t, step s = .next t ∧ (∀ r, t.reg r = 0#64) ∧ t.status = 0#16 ∧ t.fcmd = 0#32 ∧
      t.initArmed = true ∧ t.nomValid = false ∧ t.firiter = 0#32 ∧ t.firwp = 0#6 ∧ t.firnom = 0#64 ∧
      t.tsraw = 0#64 ∧ t.tsfilt = 0#64 ∧ (∀ k : Fin 33, t.firdata[k] = 0#64) ∧ t.ancn = 0 ∧
      t.anchead = 0#12 ∧ t.sx = 0#76 ∧ t.sy = 0#76 ∧ t.sxx = 0#140 ∧ t.sxy = 0#140 ∧ SameMem s t ∧
      SameHost (s.took rest) t

/-- Spec 10_state R46: the state after reset, for any parameters and any content of `MEM`; the constants of R43
and the coefficients of R36 are read through the model's CSR map. -/
def Obligations.ResetStateHoldsTheTable : Prop :=
  ∀ (cfg : Config) (mem : Memory), let s := State.resetWith cfg mem
    (∀ r, s.reg r = 0#64) ∧ s.status = 0#16 ∧ s.fcmd = 0#32 ∧ s.initArmed = true ∧ s.nomValid = false ∧
      s.firiter = 0#32 ∧ s.firwp = 0#6 ∧ s.firnom = 0#64 ∧ s.tsraw = 0#64 ∧ s.tsfilt = 0#64 ∧
      (∀ k : Fin 33, s.firdata[k] = 0#64) ∧ s.ancn = 0 ∧ s.anchead = 0#12 ∧ s.sx = 0#76 ∧ s.sy = 0#76 ∧
      s.sxx = 0#140 ∧ s.sxy = 0#140 ∧ (∀ k, s.slot k = none) ∧ s.mem = mem ∧ s.cfg = cfg ∧
      s.csr 0x0F0 = some 0x41554A5300000001#64 ∧ s.csr 0x0F1 = some (BitVec.ofNat 64 cfg.aMax) ∧
      s.csr 0x0F2 = some (BitVec.ofNat 64 cfg.memSize) ∧
      s.csr 0x0F3 = some (BitVec.ofNat 64 cfg.xprec) ∧
      ∀ k : Fin 33, s.csr (BitVec.ofNat 12 (0x080 + k.val)) =
        some (BitVec.ofNat 64 (coefficientList.getD k.val 0))

/-- The invariant holds after reset, for parameters in range and any canonical content of `MEM`; and at
`State.reset`, whose parameters and content are the model's choice (log 1, log 2). -/
def Obligations.ResetStateMeetsTheInvariant : Prop :=
  (∀ (cfg : Config) (mem : Memory), cfg.Valid → mem.wf → (∀ c ∈ mem, c.1 < cfg.memSize) →
    Inv (State.resetWith cfg mem)) ∧ Inv State.reset

/-- Spec 10_state R27 to R42: every transaction keeps the invariant: `MEM` canonical and inside `MEM_SIZE`,
the reserved bits of `STATUS` 0 and its cause one of the ten, `FIRWP` below 33, `ANCN` at most `A_MAX`,
`ANCHEAD` below `A_MAX`, and the four sums those of the anchors in the FIFO. -/
def Obligations.EveryStepKeepsTheInvariant : Prop :=
  ∀ s t : State, Inv s → step s = .next t → Inv t

/-- Spec 70_reset_and_hazards R307: every command word in every state executes to completion, or raises one
named fault, or (while faulted) is discarded; and no step ever stops. -/
def Obligations.EveryWordHasOneOutcome : Prop :=
  (∀ s : State, ∃ t, step s = .next t) ∧
    ∀ (s : State) (w : CmdWord) (rest : List Transaction), s.input = .cmd w :: rest →
      (s.faulted = true → step s = .next (s.took rest)) ∧
        (s.faulted = false → ∃ t, step s = .next t ∧
          (t.faulted = false ∨
            ∃ code : BitVec 8, 1 ≤ code.toNat ∧ code.toNat ≤ 10 ∧ Raises code w (s.took rest) t))

/-- Spec 10_state R22: a command writes only the register its encoding names in `rd`, and a command that
raises a fault writes none; no command touches the parameters, the pending transactions or the replies. -/
def Obligations.CommandWritesOnlyItsDestination : Prop :=
  ∀ (i : Instr) (s t : State), exec i s = .next t →
    (∀ r : Reg, destination i ≠ some r → t.reg r = s.reg r) ∧
      (s.faulted = false → t.faulted = true → SameRegs s t) ∧ SameHost s t

/-- Spec 10_state R22: a command reads only the registers its encoding names in a source field: a change of
any other register changes nothing it does, and that register itself takes the same value or keeps its own. -/
def Obligations.CommandReadsOnlyItsSources : Prop :=
  ∀ (i : Instr) (s t : State) (r : Reg) (v : Word64), r ∉ sources i → exec i s = .next t →
    ∃ t', exec i (s.setReg r v) = .next t' ∧ (∀ q, q ≠ r → t'.reg q = t.reg q) ∧
      (destination i ≠ some r → t'.reg r = v) ∧
      (t'.reg r = t.reg r ∨ t.reg r = s.reg r ∧ t'.reg r = v) ∧ SameFault t t' ∧
      SameFilter t t' ∧ SameAnchors t t' ∧ t'.mem = t.mem ∧ SameHost t t'

/-- Spec 20_memory R68, R69: a command stores only to the bytes of its destination operand; every other
command leaves all of `MEM` as it was. -/
def Obligations.CommandStoresOnlyItsOperand : Prop :=
  ∀ (i : Instr) (s t : State), exec i s = .next t →
    (storedRange s i = none → SameMem s t) ∧
      ∀ a n, storedRange s i = some (a, n) → SameMemOutside a n s t

/-- Spec 60_exceptions R262, R265: when a command raises a fault, `STATUS` and `FCMD` record it and nothing
else changes. -/
def Obligations.FaultEntryChangesNothingElse : Prop :=
  ∀ (i : Instr) (s t : State), exec i s = .next t → s.faulted = false → t.faulted = true →
    ∃ code : BitVec 8, 1 ≤ code.toNat ∧ code.toNat ≤ 10 ∧ Raises code (encode i) s t

/-- Spec 60_exceptions R274, R263: a command that has decoded raises only the causes of its row. -/
def Obligations.CommandRaisesOnlyItsCauses : Prop :=
  ∀ (i : Instr) (s t : State), exec i s = .next t → s.faulted = false → t.faulted = true →
    t.cause ∈ raisableCodes i

/-- Spec 60_exceptions R270 `CMD(w)`, 10_state R20: a step whose next transaction presents a word that spells
a command, while no fault is recorded, is that command's execution with the transaction taken off. That the pending
transactions are a list in the state is the model's choice (log 3). -/
def Obligations.StepRunsTheDecodedCommand : Prop :=
  ∀ (s : State) (w : CmdWord) (i : Instr) (rest : List Transaction), s.input = .cmd w :: rest →
    s.faulted = false → decode w = .ok i → step s = exec i (s.took rest)

/-- Spec 60_exceptions R264: while `STATUS.FAULT = 1` a command word is discarded undecoded, every other
transaction but `RESET` leaves the recorded fault as it is, and `RESET` leaves the faulted state. -/
def Obligations.FaultedStateIsLeftOnlyByReset : Prop :=
  ∀ (s : State) (x : Transaction) (rest : List Transaction), s.faulted = true → s.input = x :: rest →
    (∀ w, x = .cmd w → step s = .next (s.took rest)) ∧
      (x ≠ .reset → ∃ t, step s = .next t ∧ SameFault s t ∧ t.faulted = true) ∧
      (x = .reset → ∃ t, step s = .next t ∧ t.faulted = false)

/-- Spec 30_encoding R98: a word that matches no row of the opcode table raises `IllegalCommand` (code 1) and
changes nothing else. -/
def Obligations.IllegalWordRaisesIllegalCommand : Prop :=
  ∀ (s : State) (w : CmdWord) (rest : List Transaction), s.input = .cmd w :: rest →
    s.faulted = false → (∀ r ∈ opcodeTable, w &&& r.mask ≠ r.mtch) →
    ∃ t, step s = .next t ∧ Raises 1 w (s.took rest) t
end

