-- ==== Sys2Proof/Laws/Decode.lean ====
section
/-! SUPPORT. A command word and its fields determine each other, and what `whenZero` accepts. -/

namespace Sys2Proof

/-- Concatenation as arithmetic, for `omega`. -/
theorem toNat_append_eq {m n : Nat} (x : BitVec m) (y : BitVec n) :
    (x ++ y).toNat = x.toNat * 2 ^ n + y.toNat := by
  rw [BitVec.toNat_append, ← Nat.shiftLeft_add_eq_or_of_lt y.isLt, Nat.shiftLeft_eq]

theorem ofWord_toWord (f : Fields) : Fields.ofWord f.toWord = f := by
  cases f
  simp only [Fields.ofWord, Fields.toWord, Fields.mk.injEq]
  refine ⟨?_, ?_, ?_, ?_, ?_, ?_⟩ <;>
  · apply BitVec.eq_of_toNat_eq
    simp only [BitVec.extractLsb'_toNat, toNat_append_eq, Nat.shiftRight_eq_div_pow]
    omega

theorem toWord_ofWord (w : CmdWord) : (Fields.ofWord w).toWord = w := by
  apply BitVec.eq_of_toNat_eq
  simp only [Fields.ofWord, Fields.toWord, toNat_append_eq, BitVec.extractLsb'_toNat,
    Nat.shiftRight_eq_div_pow]
  have := w.isLt
  omega

theorem whenZero_ok (b : Bool) (i j : Instr) : whenZero b i = .ok j ↔ b = true ∧ i = j := by
  cases b <;> simp [whenZero]

/-- The 16-bit immediate is put back together from its three fields. -/
theorem immFields_imm16 (op : BitVec 8) (rd : Reg) (imm16 : BitVec 16) :
    (immFields op rd imm16).imm16 = imm16 := by
  apply BitVec.eq_of_toNat_eq
  simp only [immFields, Fields.imm16, toNat_append_eq, BitVec.extractLsb'_toNat,
    Nat.shiftRight_eq_div_pow]
  have := imm16.isLt
  omega

/-- The CSR number is put back together from its two fields. -/
theorem csr_split (csr : CsrNum) : csr.extractLsb' 8 4 ++ csr.extractLsb' 0 8 = csr := by
  apply BitVec.eq_of_toNat_eq
  simp only [toNat_append_eq, BitVec.extractLsb'_toNat, Nat.shiftRight_eq_div_pow]
  have := csr.isLt
  omega

end Sys2Proof
end

