-- ==== Sys2Proof/Laws/Memory.lean ====
section
/-! SUPPORT. The laws of `MEM`: reading after writing, and that every write keeps the canonical form. -/

namespace Sys2Proof.Machine

theorem read_write_same (m : Memory) (a : Nat) (b : Byte) (hm : m.wf) : (m.write a b).read a = b := by
  induction m with
  | nil => unfold Memory.write; split <;> simp_all [Memory.read]
  | cons c rest ih =>
    obtain ⟨k, v⟩ := c
    obtain ⟨hp, hn⟩ := hm
    have hr : Memory.wf rest := ⟨hp.of_cons, fun c hc => hn c (List.mem_cons_of_mem _ hc)⟩
    have hgap : ∀ l : Memory, (∀ c ∈ l, a < c.1) → l.read a = Config.unlistedByte := by
      intro l
      induction l with
      | nil => intro _; rfl
      | cons d l ihl =>
        intro h
        have : a ≠ d.1 := Nat.ne_of_lt (h d (List.mem_cons_self ..))
        simp only [Memory.read, this, if_false]
        exact ihl fun c hc => h c (List.mem_cons_of_mem _ hc)
    have hk : ∀ c ∈ rest, k < c.1 := fun c hc => List.rel_of_pairwise_cons hp hc
    unfold Memory.write
    by_cases h1 : a < k
    · by_cases h2 : b = Config.unlistedByte
      · simp only [h1, h2, if_true]
        refine hgap _ fun c hc => ?_
        rcases List.mem_cons.1 hc with rfl | hc
        · exact h1
        · exact Nat.lt_trans h1 (hk c hc)
      · simp [h1, h2, Memory.read]
    · by_cases h3 : a = k
      · by_cases h2 : b = Config.unlistedByte
        · subst h3; simp only [Nat.lt_irrefl, if_false, if_true, h2]
          exact hgap _ hk
        · simp [h3, h2, Memory.read]
      · simp only [h1, h3, if_false, Memory.read]
        exact ih hr

theorem read_write_other (m : Memory) (a c : Nat) (b : Byte) (h : c ≠ a) :
    (m.write a b).read c = m.read c := by
  induction m with
  | nil => unfold Memory.write; split <;> simp [Memory.read, h]
  | cons d rest ih =>
    obtain ⟨k, v⟩ := d
    unfold Memory.write
    by_cases h1 : a < k
    · by_cases h2 : b = Config.unlistedByte <;> simp [h1, h2, Memory.read, h]
    · by_cases h3 : a = k
      · subst h3
        by_cases h2 : b = Config.unlistedByte <;> simp [h2, Memory.read, h]
      · simp [h1, h3, Memory.read, ih]

theorem mem_write (m : Memory) (a : Nat) (b : Byte) (c : Host.Cell) (hc : c ∈ m.write a b) :
    c = (a, b) ∨ c ∈ m := by
  induction m with
  | nil =>
    unfold Memory.write at hc
    split at hc <;> simp_all
  | cons d rest ih =>
    obtain ⟨k, v⟩ := d
    unfold Memory.write at hc
    split at hc
    · split at hc
      · exact .inr hc
      · rcases List.mem_cons.1 hc with h | h
        · exact .inl h
        · exact .inr h
    · split at hc
      · split at hc
        · exact .inr (List.mem_cons_of_mem _ hc)
        · rcases List.mem_cons.1 hc with h | h
          · exact .inl h
          · exact .inr (List.mem_cons_of_mem _ h)
      · rcases List.mem_cons.1 hc with h | h
        · exact .inr (h ▸ List.mem_cons_self ..)
        · exact (ih h).imp_right (List.mem_cons_of_mem _)

theorem write_wf (m : Memory) (a : Nat) (b : Byte) (hm : m.wf) : (m.write a b).wf := by
  induction m with
  | nil =>
    unfold Memory.write
    split
    · exact hm
    · next h => exact ⟨List.pairwise_singleton _ _, by simpa using h⟩
  | cons d rest ih =>
    obtain ⟨k, v⟩ := d
    obtain ⟨hp, hn⟩ := hm
    have hr : Memory.wf rest := ⟨hp.of_cons, fun c hc => hn c (List.mem_cons_of_mem _ hc)⟩
    have hk : ∀ c ∈ rest, k < c.1 := fun c hc => List.rel_of_pairwise_cons hp hc
    unfold Memory.write
    by_cases h1 : a < k
    · by_cases h2 : b = Config.unlistedByte
      · simp only [h1, h2, if_true]; exact ⟨hp, hn⟩
      · simp only [h1, h2, if_true, if_false]
        refine ⟨List.pairwise_cons.2 ⟨fun c hc => ?_, hp⟩, fun c hc => ?_⟩
        · rcases List.mem_cons.1 hc with rfl | hc
          · exact h1
          · exact Nat.lt_trans h1 (hk c hc)
        · rcases List.mem_cons.1 hc with rfl | hc
          · exact h2
          · exact hn c hc
    · by_cases h3 : a = k
      · by_cases h2 : b = Config.unlistedByte
        · simp only [h3, h2, if_true, Nat.lt_irrefl, if_false]; exact hr
        · subst h3
          simp only [Nat.lt_irrefl, h2, if_true, if_false]
          refine ⟨List.pairwise_cons.2 ⟨hk, hp.of_cons⟩, fun c hc => ?_⟩
          rcases List.mem_cons.1 hc with rfl | hc
          · exact h2
          · exact hr.2 c hc
      · simp only [h1, h3, if_false]
        obtain ⟨ip, ine⟩ := ih hr
        refine ⟨List.pairwise_cons.2 ⟨fun c hc => ?_, ip⟩, fun c hc => ?_⟩
        · rcases mem_write rest a b c hc with rfl | hc
          · show k < a; omega
          · exact hk c hc
        · rcases List.mem_cons.1 hc with rfl | hc
          · exact hn _ (List.mem_cons_self ..)
          · exact ine c hc

theorem writeBytes_wf (m : Memory) (a : Nat) (bs : List Byte) (hm : m.wf) : (m.writeBytes a bs).wf := by
  induction bs generalizing m a with
  | nil => exact hm
  | cons b bs ih => exact ih _ _ (write_wf m a b hm)

theorem storeBytes_wf (s : State) (a : Nat) (bs : List Byte) (hm : s.mem.wf) :
    (s.storeBytes a bs).mem.wf := writeBytes_wf s.mem a bs hm

/-- A write lists no address but those it writes. -/
theorem mem_writeBytes (m : Memory) (a : Nat) (bs : List Byte) (c : Host.Cell)
    (hc : c ∈ m.writeBytes a bs) : (a ≤ c.1 ∧ c.1 < a + bs.length) ∨ c ∈ m := by
  induction bs generalizing m a with
  | nil => exact .inr hc
  | cons b bs ih =>
    rcases ih _ _ hc with h | h
    · left; simp only [List.length_cons]; omega
    · rcases mem_write m a b c h with rfl | h
      · left; simp
      · exact .inr h

theorem read_writeBytes_outside (m : Memory) (a c : Nat) (bs : List Byte)
    (h : c < a ∨ a + bs.length ≤ c) : (m.writeBytes a bs).read c = m.read c := by
  induction bs generalizing m a with
  | nil => rfl
  | cons b bs ih =>
    simp only [List.length_cons] at h
    rw [Memory.writeBytes, ih _ _ (by omega), read_write_other _ _ _ _ (by omega)]

theorem read_writeBytes_inside (m : Memory) (a i : Nat) (bs : List Byte) (hm : m.wf) (h : i < bs.length) :
    (m.writeBytes a bs).read (a + i) = bs[i] := by
  induction bs generalizing m a i with
  | nil => simp at h
  | cons b bs ih =>
    rw [Memory.writeBytes]
    cases i with
    | zero =>
      rw [read_writeBytes_outside _ _ _ _ (by omega)]
      exact read_write_same m a b hm
    | succ i =>
      have := ih (m.write a b) (a + 1) i (write_wf m a b hm) (by simpa using h)
      simpa [Nat.add_assoc, Nat.add_comm 1 i] using this

@[simp] theorem readBytes_length (m : Memory) (a n : Nat) : (m.readBytes a n).length = n := by
  induction n generalizing a with
  | zero => rfl
  | succ n ih => simp [Memory.readBytes, ih]

theorem readBytes_getElem (m : Memory) (a n i : Nat) (h : i < (m.readBytes a n).length) :
    (m.readBytes a n)[i] = m.read (a + i) := by
  induction n generalizing a i with
  | zero => simp at h
  | succ n ih =>
    cases i with
    | zero => rfl
    | succ i =>
      have := ih (a + 1) i (by simpa using h)
      simpa [Memory.readBytes, Nat.add_assoc, Nat.add_comm 1 i] using this

end Sys2Proof.Machine
end

