-- ==== Sys2Proof/Laws/State.lean ====
section
/-! SUPPORT. One lemma per field of `State` per named update, and the register read of each update, so that
no proof unfolds a record update. -/

namespace Sys2Proof.Machine

variable (s : State)

@[simp] theorem setReg_cfg (i : Reg) (v : Word64) : (s.setReg i v).cfg = s.cfg := rfl
@[simp] theorem setReg_regs (i : Reg) (v : Word64) : (s.setReg i v).regs = s.regs.set i.toNat v i.isLt := rfl
@[simp] theorem setReg_status (i : Reg) (v : Word64) : (s.setReg i v).status = s.status := rfl
@[simp] theorem setReg_fcmd (i : Reg) (v : Word64) : (s.setReg i v).fcmd = s.fcmd := rfl
@[simp] theorem setReg_firctl (i : Reg) (v : Word64) : (s.setReg i v).firctl = s.firctl := rfl
@[simp] theorem setReg_firiter (i : Reg) (v : Word64) : (s.setReg i v).firiter = s.firiter := rfl
@[simp] theorem setReg_firwp (i : Reg) (v : Word64) : (s.setReg i v).firwp = s.firwp := rfl
@[simp] theorem setReg_firnom (i : Reg) (v : Word64) : (s.setReg i v).firnom = s.firnom := rfl
@[simp] theorem setReg_tsraw (i : Reg) (v : Word64) : (s.setReg i v).tsraw = s.tsraw := rfl
@[simp] theorem setReg_tsfilt (i : Reg) (v : Word64) : (s.setReg i v).tsfilt = s.tsfilt := rfl
@[simp] theorem setReg_firdata (i : Reg) (v : Word64) : (s.setReg i v).firdata = s.firdata := rfl
@[simp] theorem setReg_anchors (i : Reg) (v : Word64) : (s.setReg i v).anchors = s.anchors := rfl
@[simp] theorem setReg_anchead (i : Reg) (v : Word64) : (s.setReg i v).anchead = s.anchead := rfl
@[simp] theorem setReg_sx (i : Reg) (v : Word64) : (s.setReg i v).sx = s.sx := rfl
@[simp] theorem setReg_sy (i : Reg) (v : Word64) : (s.setReg i v).sy = s.sy := rfl
@[simp] theorem setReg_sxx (i : Reg) (v : Word64) : (s.setReg i v).sxx = s.sxx := rfl
@[simp] theorem setReg_sxy (i : Reg) (v : Word64) : (s.setReg i v).sxy = s.sxy := rfl
@[simp] theorem setReg_mem (i : Reg) (v : Word64) : (s.setReg i v).mem = s.mem := rfl
@[simp] theorem setReg_input (i : Reg) (v : Word64) : (s.setReg i v).input = s.input := rfl
@[simp] theorem setReg_output (i : Reg) (v : Word64) : (s.setReg i v).output = s.output := rfl

@[simp] theorem setInit_cfg (b : Bool) : (s.setInit b).cfg = s.cfg := rfl
@[simp] theorem setInit_regs (b : Bool) : (s.setInit b).regs = s.regs := rfl
@[simp] theorem setInit_status (b : Bool) : (s.setInit b).status = s.status := rfl
@[simp] theorem setInit_fcmd (b : Bool) : (s.setInit b).fcmd = s.fcmd := rfl
@[simp] theorem setInit_firctl (b : Bool) : (s.setInit b).firctl = firctlWord s.nomValid b := rfl
@[simp] theorem setInit_firiter (b : Bool) : (s.setInit b).firiter = s.firiter := rfl
@[simp] theorem setInit_firwp (b : Bool) : (s.setInit b).firwp = s.firwp := rfl
@[simp] theorem setInit_firnom (b : Bool) : (s.setInit b).firnom = s.firnom := rfl
@[simp] theorem setInit_tsraw (b : Bool) : (s.setInit b).tsraw = s.tsraw := rfl
@[simp] theorem setInit_tsfilt (b : Bool) : (s.setInit b).tsfilt = s.tsfilt := rfl
@[simp] theorem setInit_firdata (b : Bool) : (s.setInit b).firdata = s.firdata := rfl
@[simp] theorem setInit_anchors (b : Bool) : (s.setInit b).anchors = s.anchors := rfl
@[simp] theorem setInit_anchead (b : Bool) : (s.setInit b).anchead = s.anchead := rfl
@[simp] theorem setInit_sx (b : Bool) : (s.setInit b).sx = s.sx := rfl
@[simp] theorem setInit_sy (b : Bool) : (s.setInit b).sy = s.sy := rfl
@[simp] theorem setInit_sxx (b : Bool) : (s.setInit b).sxx = s.sxx := rfl
@[simp] theorem setInit_sxy (b : Bool) : (s.setInit b).sxy = s.sxy := rfl
@[simp] theorem setInit_mem (b : Bool) : (s.setInit b).mem = s.mem := rfl
@[simp] theorem setInit_input (b : Bool) : (s.setInit b).input = s.input := rfl
@[simp] theorem setInit_output (b : Bool) : (s.setInit b).output = s.output := rfl
@[simp] theorem setInit_reg (b : Bool) (r : Reg) : (s.setInit b).reg r = s.reg r := rfl

@[simp] theorem setNomv_cfg (b : Bool) : (s.setNomv b).cfg = s.cfg := rfl
@[simp] theorem setNomv_regs (b : Bool) : (s.setNomv b).regs = s.regs := rfl
@[simp] theorem setNomv_status (b : Bool) : (s.setNomv b).status = s.status := rfl
@[simp] theorem setNomv_fcmd (b : Bool) : (s.setNomv b).fcmd = s.fcmd := rfl
@[simp] theorem setNomv_firctl (b : Bool) : (s.setNomv b).firctl = firctlWord b s.initArmed := rfl
@[simp] theorem setNomv_firiter (b : Bool) : (s.setNomv b).firiter = s.firiter := rfl
@[simp] theorem setNomv_firwp (b : Bool) : (s.setNomv b).firwp = s.firwp := rfl
@[simp] theorem setNomv_firnom (b : Bool) : (s.setNomv b).firnom = s.firnom := rfl
@[simp] theorem setNomv_tsraw (b : Bool) : (s.setNomv b).tsraw = s.tsraw := rfl
@[simp] theorem setNomv_tsfilt (b : Bool) : (s.setNomv b).tsfilt = s.tsfilt := rfl
@[simp] theorem setNomv_firdata (b : Bool) : (s.setNomv b).firdata = s.firdata := rfl
@[simp] theorem setNomv_anchors (b : Bool) : (s.setNomv b).anchors = s.anchors := rfl
@[simp] theorem setNomv_anchead (b : Bool) : (s.setNomv b).anchead = s.anchead := rfl
@[simp] theorem setNomv_sx (b : Bool) : (s.setNomv b).sx = s.sx := rfl
@[simp] theorem setNomv_sy (b : Bool) : (s.setNomv b).sy = s.sy := rfl
@[simp] theorem setNomv_sxx (b : Bool) : (s.setNomv b).sxx = s.sxx := rfl
@[simp] theorem setNomv_sxy (b : Bool) : (s.setNomv b).sxy = s.sxy := rfl
@[simp] theorem setNomv_mem (b : Bool) : (s.setNomv b).mem = s.mem := rfl
@[simp] theorem setNomv_input (b : Bool) : (s.setNomv b).input = s.input := rfl
@[simp] theorem setNomv_output (b : Bool) : (s.setNomv b).output = s.output := rfl
@[simp] theorem setNomv_reg (b : Bool) (r : Reg) : (s.setNomv b).reg r = s.reg r := rfl

@[simp] theorem storeBytes_cfg (a : Nat) (bs : List Byte) : (s.storeBytes a bs).cfg = s.cfg := rfl
@[simp] theorem storeBytes_regs (a : Nat) (bs : List Byte) : (s.storeBytes a bs).regs = s.regs := rfl
@[simp] theorem storeBytes_status (a : Nat) (bs : List Byte) : (s.storeBytes a bs).status = s.status := rfl
@[simp] theorem storeBytes_fcmd (a : Nat) (bs : List Byte) : (s.storeBytes a bs).fcmd = s.fcmd := rfl
@[simp] theorem storeBytes_firctl (a : Nat) (bs : List Byte) : (s.storeBytes a bs).firctl = s.firctl := rfl
@[simp] theorem storeBytes_firiter (a : Nat) (bs : List Byte) : (s.storeBytes a bs).firiter = s.firiter := rfl
@[simp] theorem storeBytes_firwp (a : Nat) (bs : List Byte) : (s.storeBytes a bs).firwp = s.firwp := rfl
@[simp] theorem storeBytes_firnom (a : Nat) (bs : List Byte) : (s.storeBytes a bs).firnom = s.firnom := rfl
@[simp] theorem storeBytes_tsraw (a : Nat) (bs : List Byte) : (s.storeBytes a bs).tsraw = s.tsraw := rfl
@[simp] theorem storeBytes_tsfilt (a : Nat) (bs : List Byte) : (s.storeBytes a bs).tsfilt = s.tsfilt := rfl
@[simp] theorem storeBytes_firdata (a : Nat) (bs : List Byte) : (s.storeBytes a bs).firdata = s.firdata := rfl
@[simp] theorem storeBytes_anchors (a : Nat) (bs : List Byte) : (s.storeBytes a bs).anchors = s.anchors := rfl
@[simp] theorem storeBytes_anchead (a : Nat) (bs : List Byte) : (s.storeBytes a bs).anchead = s.anchead := rfl
@[simp] theorem storeBytes_sx (a : Nat) (bs : List Byte) : (s.storeBytes a bs).sx = s.sx := rfl
@[simp] theorem storeBytes_sy (a : Nat) (bs : List Byte) : (s.storeBytes a bs).sy = s.sy := rfl
@[simp] theorem storeBytes_sxx (a : Nat) (bs : List Byte) : (s.storeBytes a bs).sxx = s.sxx := rfl
@[simp] theorem storeBytes_sxy (a : Nat) (bs : List Byte) : (s.storeBytes a bs).sxy = s.sxy := rfl
@[simp] theorem storeBytes_mem (a : Nat) (bs : List Byte) : (s.storeBytes a bs).mem = s.mem.writeBytes a bs := rfl
@[simp] theorem storeBytes_input (a : Nat) (bs : List Byte) : (s.storeBytes a bs).input = s.input := rfl
@[simp] theorem storeBytes_output (a : Nat) (bs : List Byte) : (s.storeBytes a bs).output = s.output := rfl
@[simp] theorem storeBytes_reg (a : Nat) (bs : List Byte) (r : Reg) : (s.storeBytes a bs).reg r = s.reg r := rfl

@[simp] theorem enterFault_cfg (k : Cause) (w : CmdWord) : (s.enterFault k w).cfg = s.cfg := rfl
@[simp] theorem enterFault_regs (k : Cause) (w : CmdWord) : (s.enterFault k w).regs = s.regs := rfl
@[simp] theorem enterFault_status (k : Cause) (w : CmdWord) : (s.enterFault k w).status = statusWord (causeCode k) true := rfl
@[simp] theorem enterFault_fcmd (k : Cause) (w : CmdWord) : (s.enterFault k w).fcmd = w := rfl
@[simp] theorem enterFault_firctl (k : Cause) (w : CmdWord) : (s.enterFault k w).firctl = s.firctl := rfl
@[simp] theorem enterFault_firiter (k : Cause) (w : CmdWord) : (s.enterFault k w).firiter = s.firiter := rfl
@[simp] theorem enterFault_firwp (k : Cause) (w : CmdWord) : (s.enterFault k w).firwp = s.firwp := rfl
@[simp] theorem enterFault_firnom (k : Cause) (w : CmdWord) : (s.enterFault k w).firnom = s.firnom := rfl
@[simp] theorem enterFault_tsraw (k : Cause) (w : CmdWord) : (s.enterFault k w).tsraw = s.tsraw := rfl
@[simp] theorem enterFault_tsfilt (k : Cause) (w : CmdWord) : (s.enterFault k w).tsfilt = s.tsfilt := rfl
@[simp] theorem enterFault_firdata (k : Cause) (w : CmdWord) : (s.enterFault k w).firdata = s.firdata := rfl
@[simp] theorem enterFault_anchors (k : Cause) (w : CmdWord) : (s.enterFault k w).anchors = s.anchors := rfl
@[simp] theorem enterFault_anchead (k : Cause) (w : CmdWord) : (s.enterFault k w).anchead = s.anchead := rfl
@[simp] theorem enterFault_sx (k : Cause) (w : CmdWord) : (s.enterFault k w).sx = s.sx := rfl
@[simp] theorem enterFault_sy (k : Cause) (w : CmdWord) : (s.enterFault k w).sy = s.sy := rfl
@[simp] theorem enterFault_sxx (k : Cause) (w : CmdWord) : (s.enterFault k w).sxx = s.sxx := rfl
@[simp] theorem enterFault_sxy (k : Cause) (w : CmdWord) : (s.enterFault k w).sxy = s.sxy := rfl
@[simp] theorem enterFault_mem (k : Cause) (w : CmdWord) : (s.enterFault k w).mem = s.mem := rfl
@[simp] theorem enterFault_input (k : Cause) (w : CmdWord) : (s.enterFault k w).input = s.input := rfl
@[simp] theorem enterFault_output (k : Cause) (w : CmdWord) : (s.enterFault k w).output = s.output := rfl
@[simp] theorem enterFault_reg (k : Cause) (w : CmdWord) (r : Reg) : (s.enterFault k w).reg r = s.reg r := rfl

@[simp] theorem prime_cfg (v : Word64) : (s.prime v).cfg = s.cfg := rfl
@[simp] theorem prime_regs (v : Word64) : (s.prime v).regs = s.regs := rfl
@[simp] theorem prime_status (v : Word64) : (s.prime v).status = s.status := rfl
@[simp] theorem prime_fcmd (v : Word64) : (s.prime v).fcmd = s.fcmd := rfl
@[simp] theorem prime_firctl (v : Word64) : (s.prime v).firctl = s.firctl := rfl
@[simp] theorem prime_firiter (v : Word64) : (s.prime v).firiter = 1#32 := rfl
@[simp] theorem prime_firwp (v : Word64) : (s.prime v).firwp = 0#6 := rfl
@[simp] theorem prime_firnom (v : Word64) : (s.prime v).firnom = s.firnom := rfl
@[simp] theorem prime_tsraw (v : Word64) : (s.prime v).tsraw = s.tsraw := rfl
@[simp] theorem prime_tsfilt (v : Word64) : (s.prime v).tsfilt = s.tsfilt := rfl
@[simp] theorem prime_firdata (v : Word64) : (s.prime v).firdata = Vector.replicate 33 v := rfl
@[simp] theorem prime_anchors (v : Word64) : (s.prime v).anchors = s.anchors := rfl
@[simp] theorem prime_anchead (v : Word64) : (s.prime v).anchead = s.anchead := rfl
@[simp] theorem prime_sx (v : Word64) : (s.prime v).sx = s.sx := rfl
@[simp] theorem prime_sy (v : Word64) : (s.prime v).sy = s.sy := rfl
@[simp] theorem prime_sxx (v : Word64) : (s.prime v).sxx = s.sxx := rfl
@[simp] theorem prime_sxy (v : Word64) : (s.prime v).sxy = s.sxy := rfl
@[simp] theorem prime_mem (v : Word64) : (s.prime v).mem = s.mem := rfl
@[simp] theorem prime_input (v : Word64) : (s.prime v).input = s.input := rfl
@[simp] theorem prime_output (v : Word64) : (s.prime v).output = s.output := rfl
@[simp] theorem prime_reg (v : Word64) (r : Reg) : (s.prime v).reg r = s.reg r := rfl

@[simp] theorem appendAnchor_cfg (a : Anchor) : (s.appendAnchor a).cfg = s.cfg := rfl
@[simp] theorem appendAnchor_regs (a : Anchor) : (s.appendAnchor a).regs = s.regs := rfl
@[simp] theorem appendAnchor_status (a : Anchor) : (s.appendAnchor a).status = s.status := rfl
@[simp] theorem appendAnchor_fcmd (a : Anchor) : (s.appendAnchor a).fcmd = s.fcmd := rfl
@[simp] theorem appendAnchor_firctl (a : Anchor) : (s.appendAnchor a).firctl = s.firctl := rfl
@[simp] theorem appendAnchor_firiter (a : Anchor) : (s.appendAnchor a).firiter = s.firiter := rfl
@[simp] theorem appendAnchor_firwp (a : Anchor) : (s.appendAnchor a).firwp = s.firwp := rfl
@[simp] theorem appendAnchor_firnom (a : Anchor) : (s.appendAnchor a).firnom = s.firnom := rfl
@[simp] theorem appendAnchor_tsraw (a : Anchor) : (s.appendAnchor a).tsraw = s.tsraw := rfl
@[simp] theorem appendAnchor_tsfilt (a : Anchor) : (s.appendAnchor a).tsfilt = s.tsfilt := rfl
@[simp] theorem appendAnchor_firdata (a : Anchor) : (s.appendAnchor a).firdata = s.firdata := rfl
@[simp] theorem appendAnchor_anchors (a : Anchor) : (s.appendAnchor a).anchors = s.anchors ++ [a] := rfl
@[simp] theorem appendAnchor_anchead (a : Anchor) : (s.appendAnchor a).anchead = s.anchead := rfl
@[simp] theorem appendAnchor_sx (a : Anchor) : (s.appendAnchor a).sx = s.sx + a.frame.setWidth 76 := rfl
@[simp] theorem appendAnchor_sy (a : Anchor) : (s.appendAnchor a).sy = s.sy + a.time.setWidth 76 := rfl
@[simp] theorem appendAnchor_sxx (a : Anchor) : (s.appendAnchor a).sxx = s.sxx + wideMul a.frame a.frame := rfl
@[simp] theorem appendAnchor_sxy (a : Anchor) : (s.appendAnchor a).sxy = s.sxy + wideMul a.frame a.time := rfl
@[simp] theorem appendAnchor_mem (a : Anchor) : (s.appendAnchor a).mem = s.mem := rfl
@[simp] theorem appendAnchor_input (a : Anchor) : (s.appendAnchor a).input = s.input := rfl
@[simp] theorem appendAnchor_output (a : Anchor) : (s.appendAnchor a).output = s.output := rfl
@[simp] theorem appendAnchor_reg (a : Anchor) (r : Reg) : (s.appendAnchor a).reg r = s.reg r := rfl

@[simp] theorem clearAnchors_cfg : (s.clearAnchors).cfg = s.cfg := rfl
@[simp] theorem clearAnchors_regs : (s.clearAnchors).regs = s.regs := rfl
@[simp] theorem clearAnchors_status : (s.clearAnchors).status = s.status := rfl
@[simp] theorem clearAnchors_fcmd : (s.clearAnchors).fcmd = s.fcmd := rfl
@[simp] theorem clearAnchors_firctl : (s.clearAnchors).firctl = s.firctl := rfl
@[simp] theorem clearAnchors_firiter : (s.clearAnchors).firiter = s.firiter := rfl
@[simp] theorem clearAnchors_firwp : (s.clearAnchors).firwp = s.firwp := rfl
@[simp] theorem clearAnchors_firnom : (s.clearAnchors).firnom = s.firnom := rfl
@[simp] theorem clearAnchors_tsraw : (s.clearAnchors).tsraw = s.tsraw := rfl
@[simp] theorem clearAnchors_tsfilt : (s.clearAnchors).tsfilt = s.tsfilt := rfl
@[simp] theorem clearAnchors_firdata : (s.clearAnchors).firdata = s.firdata := rfl
@[simp] theorem clearAnchors_anchors : (s.clearAnchors).anchors = [] := rfl
@[simp] theorem clearAnchors_anchead : (s.clearAnchors).anchead = 0#12 := rfl
@[simp] theorem clearAnchors_sx : (s.clearAnchors).sx = 0#76 := rfl
@[simp] theorem clearAnchors_sy : (s.clearAnchors).sy = 0#76 := rfl
@[simp] theorem clearAnchors_sxx : (s.clearAnchors).sxx = 0#140 := rfl
@[simp] theorem clearAnchors_sxy : (s.clearAnchors).sxy = 0#140 := rfl
@[simp] theorem clearAnchors_mem : (s.clearAnchors).mem = s.mem := rfl
@[simp] theorem clearAnchors_input : (s.clearAnchors).input = s.input := rfl
@[simp] theorem clearAnchors_output : (s.clearAnchors).output = s.output := rfl
@[simp] theorem clearAnchors_reg (r : Reg) : (s.clearAnchors).reg r = s.reg r := rfl

@[simp] theorem reply_cfg (r : Reply) : (s.reply r).cfg = s.cfg := rfl
@[simp] theorem reply_regs (r : Reply) : (s.reply r).regs = s.regs := rfl
@[simp] theorem reply_status (r : Reply) : (s.reply r).status = s.status := rfl
@[simp] theorem reply_fcmd (r : Reply) : (s.reply r).fcmd = s.fcmd := rfl
@[simp] theorem reply_firctl (r : Reply) : (s.reply r).firctl = s.firctl := rfl
@[simp] theorem reply_firiter (r : Reply) : (s.reply r).firiter = s.firiter := rfl
@[simp] theorem reply_firwp (r : Reply) : (s.reply r).firwp = s.firwp := rfl
@[simp] theorem reply_firnom (r : Reply) : (s.reply r).firnom = s.firnom := rfl
@[simp] theorem reply_tsraw (r : Reply) : (s.reply r).tsraw = s.tsraw := rfl
@[simp] theorem reply_tsfilt (r : Reply) : (s.reply r).tsfilt = s.tsfilt := rfl
@[simp] theorem reply_firdata (r : Reply) : (s.reply r).firdata = s.firdata := rfl
@[simp] theorem reply_anchors (r : Reply) : (s.reply r).anchors = s.anchors := rfl
@[simp] theorem reply_anchead (r : Reply) : (s.reply r).anchead = s.anchead := rfl
@[simp] theorem reply_sx (r : Reply) : (s.reply r).sx = s.sx := rfl
@[simp] theorem reply_sy (r : Reply) : (s.reply r).sy = s.sy := rfl
@[simp] theorem reply_sxx (r : Reply) : (s.reply r).sxx = s.sxx := rfl
@[simp] theorem reply_sxy (r : Reply) : (s.reply r).sxy = s.sxy := rfl
@[simp] theorem reply_mem (r : Reply) : (s.reply r).mem = s.mem := rfl
@[simp] theorem reply_input (r : Reply) : (s.reply r).input = s.input := rfl
@[simp] theorem reply_output (r : Reply) : (s.reply r).output = s.output ++ [r] := rfl
@[simp] theorem reply_reg (v : Reply) (r : Reg) : (s.reply v).reg r = s.reg r := rfl

@[simp] theorem presentFirst_cfg (w : CmdWord) : (s.presentFirst w).cfg = s.cfg := rfl
@[simp] theorem presentFirst_regs (w : CmdWord) : (s.presentFirst w).regs = s.regs := rfl
@[simp] theorem presentFirst_status (w : CmdWord) : (s.presentFirst w).status = s.status := rfl
@[simp] theorem presentFirst_fcmd (w : CmdWord) : (s.presentFirst w).fcmd = s.fcmd := rfl
@[simp] theorem presentFirst_firctl (w : CmdWord) : (s.presentFirst w).firctl = s.firctl := rfl
@[simp] theorem presentFirst_firiter (w : CmdWord) : (s.presentFirst w).firiter = s.firiter := rfl
@[simp] theorem presentFirst_firwp (w : CmdWord) : (s.presentFirst w).firwp = s.firwp := rfl
@[simp] theorem presentFirst_firnom (w : CmdWord) : (s.presentFirst w).firnom = s.firnom := rfl
@[simp] theorem presentFirst_tsraw (w : CmdWord) : (s.presentFirst w).tsraw = s.tsraw := rfl
@[simp] theorem presentFirst_tsfilt (w : CmdWord) : (s.presentFirst w).tsfilt = s.tsfilt := rfl
@[simp] theorem presentFirst_firdata (w : CmdWord) : (s.presentFirst w).firdata = s.firdata := rfl
@[simp] theorem presentFirst_anchors (w : CmdWord) : (s.presentFirst w).anchors = s.anchors := rfl
@[simp] theorem presentFirst_anchead (w : CmdWord) : (s.presentFirst w).anchead = s.anchead := rfl
@[simp] theorem presentFirst_sx (w : CmdWord) : (s.presentFirst w).sx = s.sx := rfl
@[simp] theorem presentFirst_sy (w : CmdWord) : (s.presentFirst w).sy = s.sy := rfl
@[simp] theorem presentFirst_sxx (w : CmdWord) : (s.presentFirst w).sxx = s.sxx := rfl
@[simp] theorem presentFirst_sxy (w : CmdWord) : (s.presentFirst w).sxy = s.sxy := rfl
@[simp] theorem presentFirst_mem (w : CmdWord) : (s.presentFirst w).mem = s.mem := rfl
@[simp] theorem presentFirst_input (w : CmdWord) : (s.presentFirst w).input = .cmd w :: s.input := rfl
@[simp] theorem presentFirst_output (w : CmdWord) : (s.presentFirst w).output = s.output := rfl
@[simp] theorem presentFirst_reg (w : CmdWord) (r : Reg) : (s.presentFirst w).reg r = s.reg r := rfl

@[simp] theorem setReg_reg_same (i : Reg) (v : Word64) : (s.setReg i v).reg i = v := by
  simp [State.reg]

theorem setReg_reg_other (i r : Reg) (v : Word64) (h : r ≠ i) : (s.setReg i v).reg r = s.reg r := by
  have : i.toNat ≠ r.toNat := fun e => h (BitVec.eq_of_toNat_eq e.symm)
  simp [State.reg, this]

theorem setReg_reg (i r : Reg) (v : Word64) :
    (s.setReg i v).reg r = if r = i then v else s.reg r := by
  split
  · next h => subst h; exact setReg_reg_same s r v
  · next h => exact setReg_reg_other s i r v h

@[simp] theorem push_cfg (v : Word64) : (s.push v).cfg = s.cfg := by
  unfold State.push; split <;> rfl

@[simp] theorem push_regs (v : Word64) : (s.push v).regs = s.regs := by
  unfold State.push; split <;> rfl

@[simp] theorem push_status (v : Word64) : (s.push v).status = s.status := by
  unfold State.push; split <;> rfl

@[simp] theorem push_fcmd (v : Word64) : (s.push v).fcmd = s.fcmd := by
  unfold State.push; split <;> rfl

@[simp] theorem push_firctl (v : Word64) : (s.push v).firctl = s.firctl := by
  unfold State.push; split <;> rfl

@[simp] theorem push_firnom (v : Word64) : (s.push v).firnom = s.firnom := by
  unfold State.push; split <;> rfl

@[simp] theorem push_tsraw (v : Word64) : (s.push v).tsraw = s.tsraw := by
  unfold State.push; split <;> rfl

@[simp] theorem push_tsfilt (v : Word64) : (s.push v).tsfilt = s.tsfilt := by
  unfold State.push; split <;> rfl

@[simp] theorem push_anchors (v : Word64) : (s.push v).anchors = s.anchors := by
  unfold State.push; split <;> rfl

@[simp] theorem push_anchead (v : Word64) : (s.push v).anchead = s.anchead := by
  unfold State.push; split <;> rfl

@[simp] theorem push_sx (v : Word64) : (s.push v).sx = s.sx := by
  unfold State.push; split <;> rfl

@[simp] theorem push_sy (v : Word64) : (s.push v).sy = s.sy := by
  unfold State.push; split <;> rfl

@[simp] theorem push_sxx (v : Word64) : (s.push v).sxx = s.sxx := by
  unfold State.push; split <;> rfl

@[simp] theorem push_sxy (v : Word64) : (s.push v).sxy = s.sxy := by
  unfold State.push; split <;> rfl

@[simp] theorem push_mem (v : Word64) : (s.push v).mem = s.mem := by
  unfold State.push; split <;> rfl

@[simp] theorem push_input (v : Word64) : (s.push v).input = s.input := by
  unfold State.push; split <;> rfl

@[simp] theorem push_output (v : Word64) : (s.push v).output = s.output := by
  unfold State.push; split <;> rfl

@[simp] theorem push_reg (v : Word64) (r : Reg) : (s.push v).reg r = s.reg r := by
  simp [State.reg]

@[simp] theorem evictOldest_cfg : s.evictOldest.cfg = s.cfg := by
  unfold State.evictOldest; split <;> rfl

@[simp] theorem addAnchor_cfg (a : Anchor) : (s.addAnchor a).cfg = s.cfg := by
  unfold State.addAnchor; split <;> simp

@[simp] theorem evictOldest_regs : s.evictOldest.regs = s.regs := by
  unfold State.evictOldest; split <;> rfl

@[simp] theorem addAnchor_regs (a : Anchor) : (s.addAnchor a).regs = s.regs := by
  unfold State.addAnchor; split <;> simp

@[simp] theorem evictOldest_status : s.evictOldest.status = s.status := by
  unfold State.evictOldest; split <;> rfl

@[simp] theorem addAnchor_status (a : Anchor) : (s.addAnchor a).status = s.status := by
  unfold State.addAnchor; split <;> simp

@[simp] theorem evictOldest_fcmd : s.evictOldest.fcmd = s.fcmd := by
  unfold State.evictOldest; split <;> rfl

@[simp] theorem addAnchor_fcmd (a : Anchor) : (s.addAnchor a).fcmd = s.fcmd := by
  unfold State.addAnchor; split <;> simp

@[simp] theorem evictOldest_firctl : s.evictOldest.firctl = s.firctl := by
  unfold State.evictOldest; split <;> rfl

@[simp] theorem addAnchor_firctl (a : Anchor) : (s.addAnchor a).firctl = s.firctl := by
  unfold State.addAnchor; split <;> simp

@[simp] theorem evictOldest_firiter : s.evictOldest.firiter = s.firiter := by
  unfold State.evictOldest; split <;> rfl

@[simp] theorem addAnchor_firiter (a : Anchor) : (s.addAnchor a).firiter = s.firiter := by
  unfold State.addAnchor; split <;> simp

@[simp] theorem evictOldest_firwp : s.evictOldest.firwp = s.firwp := by
  unfold State.evictOldest; split <;> rfl

@[simp] theorem addAnchor_firwp (a : Anchor) : (s.addAnchor a).firwp = s.firwp := by
  unfold State.addAnchor; split <;> simp

@[simp] theorem evictOldest_firnom : s.evictOldest.firnom = s.firnom := by
  unfold State.evictOldest; split <;> rfl

@[simp] theorem addAnchor_firnom (a : Anchor) : (s.addAnchor a).firnom = s.firnom := by
  unfold State.addAnchor; split <;> simp

@[simp] theorem evictOldest_tsraw : s.evictOldest.tsraw = s.tsraw := by
  unfold State.evictOldest; split <;> rfl

@[simp] theorem addAnchor_tsraw (a : Anchor) : (s.addAnchor a).tsraw = s.tsraw := by
  unfold State.addAnchor; split <;> simp

@[simp] theorem evictOldest_tsfilt : s.evictOldest.tsfilt = s.tsfilt := by
  unfold State.evictOldest; split <;> rfl

@[simp] theorem addAnchor_tsfilt (a : Anchor) : (s.addAnchor a).tsfilt = s.tsfilt := by
  unfold State.addAnchor; split <;> simp

@[simp] theorem evictOldest_firdata : s.evictOldest.firdata = s.firdata := by
  unfold State.evictOldest; split <;> rfl

@[simp] theorem addAnchor_firdata (a : Anchor) : (s.addAnchor a).firdata = s.firdata := by
  unfold State.addAnchor; split <;> simp

@[simp] theorem evictOldest_mem : s.evictOldest.mem = s.mem := by
  unfold State.evictOldest; split <;> rfl

@[simp] theorem addAnchor_mem (a : Anchor) : (s.addAnchor a).mem = s.mem := by
  unfold State.addAnchor; split <;> simp

@[simp] theorem evictOldest_input : s.evictOldest.input = s.input := by
  unfold State.evictOldest; split <;> rfl

@[simp] theorem addAnchor_input (a : Anchor) : (s.addAnchor a).input = s.input := by
  unfold State.addAnchor; split <;> simp

@[simp] theorem evictOldest_output : s.evictOldest.output = s.output := by
  unfold State.evictOldest; split <;> rfl

@[simp] theorem addAnchor_output (a : Anchor) : (s.addAnchor a).output = s.output := by
  unfold State.addAnchor; split <;> simp

@[simp] theorem addAnchor_reg (a : Anchor) (r : Reg) : (s.addAnchor a).reg r = s.reg r := by
  simp [State.reg]

@[simp] theorem applyReset_cfg : s.applyReset.cfg = s.cfg := rfl
@[simp] theorem applyReset_regs : s.applyReset.regs = Vector.replicate 16 0#64 := rfl
@[simp] theorem applyReset_status : s.applyReset.status = 0#16 := rfl
@[simp] theorem applyReset_fcmd : s.applyReset.fcmd = 0#32 := rfl
@[simp] theorem applyReset_firctl : s.applyReset.firctl = 1#2 := rfl
@[simp] theorem applyReset_firiter : s.applyReset.firiter = 0#32 := rfl
@[simp] theorem applyReset_firwp : s.applyReset.firwp = 0#6 := rfl
@[simp] theorem applyReset_firnom : s.applyReset.firnom = 0#64 := rfl
@[simp] theorem applyReset_tsraw : s.applyReset.tsraw = 0#64 := rfl
@[simp] theorem applyReset_tsfilt : s.applyReset.tsfilt = 0#64 := rfl
@[simp] theorem applyReset_firdata : s.applyReset.firdata = Vector.replicate 33 0#64 := rfl
@[simp] theorem applyReset_anchors : s.applyReset.anchors = [] := rfl
@[simp] theorem applyReset_anchead : s.applyReset.anchead = 0#12 := rfl
@[simp] theorem applyReset_sx : s.applyReset.sx = 0#76 := rfl
@[simp] theorem applyReset_sy : s.applyReset.sy = 0#76 := rfl
@[simp] theorem applyReset_sxx : s.applyReset.sxx = 0#140 := rfl
@[simp] theorem applyReset_sxy : s.applyReset.sxy = 0#140 := rfl
@[simp] theorem applyReset_mem : s.applyReset.mem = s.mem := rfl
@[simp] theorem applyReset_input : s.applyReset.input = s.input := rfl
@[simp] theorem applyReset_output : s.applyReset.output = s.output := rfl

/-! The bits of `STATUS` and `FIRCTL`. -/

@[simp] theorem firctlWord_nomv (n i : Bool) : (firctlWord n i).getLsbD 1 = n := by
  cases n <;> cases i <;> rfl

@[simp] theorem firctlWord_init (n i : Bool) : (firctlWord n i).getLsbD 0 = i := by
  cases n <;> cases i <;> rfl

@[simp] theorem setInit_initArmed (b : Bool) : (s.setInit b).initArmed = b := by
  simp only [State.initArmed, setInit_firctl, firctlWord_init]

@[simp] theorem setInit_nomValid (b : Bool) : (s.setInit b).nomValid = s.nomValid := by
  simp only [State.nomValid, setInit_firctl, firctlWord_nomv]

@[simp] theorem setNomv_nomValid (b : Bool) : (s.setNomv b).nomValid = b := by
  simp only [State.nomValid, setNomv_firctl, firctlWord_nomv]

@[simp] theorem setNomv_initArmed (b : Bool) : (s.setNomv b).initArmed = s.initArmed := by
  simp only [State.initArmed, setNomv_firctl, firctlWord_init]

theorem statusWord_eq (c : BitVec 8) : statusWord c true = c ++ 0x01#8 := by
  apply BitVec.eq_of_toNat_eq
  rw [statusWord, toNat_append_eq, toNat_append_eq, toNat_append_eq]
  show (c.toNat * 2 ^ 7 + 0) * 2 ^ 1 + 1 = c.toNat * 2 ^ 8 + 1
  omega

@[simp] theorem enterFault_faulted (k : Cause) (w : CmdWord) : (s.enterFault k w).faulted = true := by
  simp only [State.faulted, enterFault_status]
  cases k <;> decide

@[simp] theorem enterFault_cause (k : Cause) (w : CmdWord) : (s.enterFault k w).cause = causeCode k := by
  simp only [State.cause, enterFault_status]
  cases k <;> decide

end Sys2Proof.Machine
end

