-- ==== Sys2Proof/Laws/Ops.lean ====
section
/-! SUPPORT. For each shared operation, once, everything it can do. -/

namespace Sys2Proof.Machine

/-! The end of a command. -/

theorem complete_next (w : CmdWord) (s t : State) (r : Except Cause State) :
    complete w s r = .next t ↔ r = .ok t ∨ ∃ k, r = .error k ∧ t = s.enterFault k w := by
  cases r with
  | ok u => simp [complete]
  | error k => simp [complete, raise, eq_comm]

theorem map_setReg_ok {α : Type} (r : Except Cause α) (g : α → State) (t : State) :
    r.map g = .ok t ↔ ∃ a, r = .ok a ∧ t = g a := by
  cases r <;> simp [Except.map, eq_comm]

theorem map_setReg_error {α : Type} (r : Except Cause α) (g : α → State) (k : Cause) :
    r.map g = .error k ↔ r = .error k := by
  cases r <;> simp [Except.map]

/-! The checks of the commands that access `MEM`. -/

theorem inMem_iff (s : State) (a len : Nat) : s.inMem a len = true ↔ a + len ≤ s.cfg.memSize := by
  simp [State.inMem]

theorem overlaps_iff (a la b lb : Nat) :
    overlaps a la b lb = true ↔ 0 < la ∧ 0 < lb ∧ a < b + lb ∧ b < a + la := by
  simp [overlaps]

theorem convCheck_none (s : State) (o : ConvOperands) (m n : Nat) :
    s.convCheck o m n = none ↔
      o.src + m * o.count ≤ s.cfg.memSize ∧ o.dst + n * o.count ≤ s.cfg.memSize ∧
        ¬(0 < m * o.count ∧ 0 < n * o.count ∧ o.src < o.dst + n * o.count ∧
          o.dst < o.src + m * o.count) := by
  simp only [State.convCheck, State.inMem, overlaps, Bool.not_eq_true', decide_eq_false_iff_not,
    decide_eq_true_iff]
  split
  · next h => simp [h]
  · next h1 =>
    split
    · next h => simp [h]
    · next h2 =>
      split
      · next h => simp only [reduceCtorEq, false_iff]; tauto
      · next h3 => simp only [true_iff]; exact ⟨not_not.1 h1, not_not.1 h2, h3⟩

theorem convCheck_some (s : State) (o : ConvOperands) (m n : Nat) (k : Cause) :
    s.convCheck o m n = some k ↔
      (k = .addrRange ∧ (s.cfg.memSize < o.src + m * o.count ∨ s.cfg.memSize < o.dst + n * o.count)) ∨
        (k = .overlap ∧ o.src + m * o.count ≤ s.cfg.memSize ∧ o.dst + n * o.count ≤ s.cfg.memSize ∧
          0 < m * o.count ∧ 0 < n * o.count ∧ o.src < o.dst + n * o.count ∧
          o.dst < o.src + m * o.count) := by
  simp only [State.convCheck, State.inMem, overlaps, Bool.not_eq_true', decide_eq_false_iff_not,
    decide_eq_true_iff, Nat.not_le]
  generalize m * o.count = x
  generalize n * o.count = y
  split
  · next h =>
    constructor
    · rintro ⟨⟩; exact .inl ⟨rfl, .inl h⟩
    · rintro (⟨rfl, -⟩ | ⟨rfl, h2, -⟩)
      · rfl
      · omega
  · next h1 =>
    split
    · next h =>
      constructor
      · rintro ⟨⟩; exact .inl ⟨rfl, .inr h⟩
      · rintro (⟨rfl, -⟩ | ⟨rfl, -, h2, -⟩)
        · rfl
        · omega
    · next h2 =>
      split
      · next h =>
        constructor
        · rintro ⟨⟩; exact .inr ⟨rfl, Nat.not_lt.1 h1, Nat.not_lt.1 h2, h⟩
        · rintro (⟨rfl, h3⟩ | ⟨rfl, -⟩)
          · omega
          · rfl
      · next h =>
        constructor
        · rintro ⟨⟩
        · rintro (⟨rfl, h3⟩ | ⟨rfl, -, -, h3⟩)
          · omega
          · exact absurd h3 h

theorem payload_ok (s : State) (ra : Reg) (n p : Nat) :
    s.payload ra n = .ok p ↔
      (s.reg ra).toNat + n ≤ s.cfg.memSize ∧ p = leNat (s.mem.readBytes (s.reg ra).toNat n) := by
  unfold State.payload
  split
  · next h => simp [(inMem_iff ..).1 h, eq_comm]
  · next h => simp [mt (inMem_iff ..).2 h]

theorem payload_error (s : State) (ra : Reg) (n : Nat) (k : Cause) :
    s.payload ra n = .error k ↔ k = .addrRange ∧ s.cfg.memSize < (s.reg ra).toNat + n := by
  unfold State.payload
  split
  · next h => have := (inMem_iff ..).1 h; simp; omega
  · next h => have := mt (inMem_iff ..).2 h; simp [eq_comm]; omega

/-! The conversion loops. -/

@[simp] theorem bytesLE_length (v n : Nat) : (bytesLE v n).length = n := by
  induction n generalizing v with
  | zero => rfl
  | succ n ih => simp [bytesLE, ih]

@[simp] theorem sampleBytes_length (bo : ByteOrder) (v n : Nat) : (sampleBytes bo v n).length = n := by
  cases bo <;> simp [sampleBytes, bytesBE]

@[simp] theorem readSamples_length (m : Memory) (bo : ByteOrder) (size a n : Nat) :
    (m.readSamples bo size a n).length = n := by
  induction n generalizing a with
  | zero => rfl
  | succ n ih => simp [Memory.readSamples, ih]

theorem readSamples_getElem (m : Memory) (bo : ByteOrder) (size a n i : Nat)
    (h : i < (m.readSamples bo size a n).length) :
    (m.readSamples bo size a n)[i] = sampleNat bo (m.readBytes (a + i * size) size) := by
  induction n generalizing a i with
  | zero => simp at h
  | succ n ih =>
    cases i with
    | zero => simp [Memory.readSamples]
    | succ i =>
      have := ih (a + size) i (by simpa using h)
      simpa [Memory.readSamples, Nat.add_mul, Nat.add_assoc, Nat.add_comm size] using this

theorem clipBytes_length (wc : Width) (bo : ByteOrder) (ws : List Nat) (bs : List Byte)
    (h : clipBytes wc bo ws = some bs) : bs.length = widthBytes wc * ws.length := by
  induction ws generalizing bs with
  | nil => simp only [clipBytes, Option.some.injEq] at h; subst h; simp
  | cons w ws ih =>
    simp only [clipBytes] at h
    split at h
    · next x rest _ hr =>
      simp only [Option.some.injEq] at h
      subst h
      simp [ih rest hr, Nat.mul_add, Nat.add_comm]
    · simp at h

@[simp] theorem tofBytes_length (wc : Width) (us : List Nat) :
    (tofBytes wc us).length = 4 * us.length := by
  induction us with
  | nil => rfl
  | cons u us ih => simp [tofBytes, ih]; omega

theorem forward_ok (wc : Width) (bo : ByteOrder) (ra rb rc : Reg) (s t : State) :
    forward wc bo ra rb rc s = .ok t ↔
      s.convCheck (s.convOperands ra rb rc) 4 (widthBytes wc) = none ∧
        ∃ bs, clipBytes wc bo (s.mem.readSamples .le 4 (s.reg rb).toNat (s.reg rc).toNat) = some bs ∧
          t = s.storeBytes (s.reg ra).toNat bs := by
  simp only [forward, State.convOperands]
  split
  · next h => simp [h]
  · next h =>
    split
    · next h2 => simp [h2]
    · next bs h2 => simp [h, h2, eq_comm]

theorem inverse_ok (wc : Width) (bo : ByteOrder) (ra rb rc : Reg) (s t : State) :
    inverse wc bo ra rb rc s = .ok t ↔
      s.convCheck (s.convOperands ra rb rc) (widthBytes wc) 4 = none ∧
        t = s.storeBytes (s.reg ra).toNat
          (tofBytes wc (s.mem.readSamples bo (widthBytes wc) (s.reg rb).toNat (s.reg rc).toNat)) := by
  simp only [inverse, State.convOperands]
  split
  · next h => simp [h]
  · next h => simp [h, eq_comm]

/-! The filter and timestamp rules. -/

theorem storeNominal_ok (s t : State) (ra rb : Reg) :
    s.storeNominal ra rb = .ok t ↔
      (s.reg rb).toNat ≠ 0 ∧ nominalDelta (s.reg ra).toNat (s.reg rb).toNat < 2 ^ 64 ∧
        t = { s.setNomv true with
          firnom := BitVec.ofNat 64 (nominalDelta (s.reg ra).toNat (s.reg rb).toNat) } := by
  simp only [State.storeNominal]
  split
  · next h => simp [h]
  · next h =>
    split
    · next h2 => simp only [reduceCtorEq, false_iff]; omega
    · next h2 => simp only [Except.ok.injEq, ne_eq, h, not_false_eq_true, true_and, Nat.not_le.1 h2, eq_comm]

theorem stampPriming_ok (s t : State) (rd : Reg) (raw : Word64) :
    s.stampPriming rd raw = .ok t ↔
      s.nomValid = true ∧
        t = (({ s.prime s.firnom with tsraw := raw, tsfilt := raw }).setInit false).setReg rd raw := by
  simp only [State.stampPriming]
  split
  · next h => simp [h, eq_comm]
  · next h => simp [h]

theorem stampFiltering_ok (s t : State) (rd : Reg) (raw : Word64) :
    s.stampFiltering rd raw = .ok t ↔
      s.tsraw.toNat ≤ raw.toNat ∧
        s.tsfilt.toNat + (s.pushResult (raw - s.tsraw)).toNat < 2 ^ 64 ∧
        t = ({ s.push (raw - s.tsraw) with
              tsraw := raw
              tsfilt := BitVec.ofNat 64 (s.tsfilt.toNat + (s.pushResult (raw - s.tsraw)).toNat) }).setReg rd
            (BitVec.ofNat 64 (s.tsfilt.toNat + (s.pushResult (raw - s.tsraw)).toNat)) := by
  simp only [State.stampFiltering]
  split
  · next h => simp only [reduceCtorEq, false_iff]; omega
  · next h =>
    split
    · next h2 => simp only [reduceCtorEq, false_iff]; omega
    · next h2 => simp only [Except.ok.injEq, Nat.not_lt.1 h, Nat.not_le.1 h2, true_and, eq_comm]

/-! The estimator's rules. -/

theorem fit64_ok (x : Int) (w : Word64) :
    fit64 x = .ok w ↔ 0 ≤ x ∧ x < 2 ^ 64 ∧ (w.toNat : Int) = x := by
  unfold fit64
  split
  · next h => simp only [reduceCtorEq, false_iff]; omega
  · next h =>
    have hx : 0 ≤ x ∧ x < 2 ^ 64 := by omega
    simp only [Except.ok.injEq]
    constructor
    · rintro rfl
      refine ⟨hx.1, hx.2, ?_⟩
      rw [BitVec.toNat_ofInt]
      omega
    · rintro ⟨-, -, h⟩
      apply BitVec.eq_of_toNat_eq
      rw [BitVec.toNat_ofInt]
      omega

theorem fit64_error (x : Int) (k : Cause) :
    fit64 x = .error k ↔ k = .resultRange ∧ (x < 0 ∨ 2 ^ 64 ≤ x) := by
  unfold fit64
  split
  · next h => exact ⟨fun e => ⟨(Except.error.inj e).symm, h⟩, fun e => by rw [e.1]⟩
  · next h => exact ⟨fun e => (by cases e), fun e => absurd e.2 h⟩

theorem rate_ok (s : State) (w : Word64) :
    s.rate = .ok w ↔ 2 ≤ s.ancn ∧ s.den ≠ 0 ∧ fit64 s.slope = .ok w := by
  unfold State.rate
  split
  · next h => simp only [reduceCtorEq, false_iff]; omega
  · next h =>
    split
    · next h2 => simp [h2]
    · next h2 => simp [h2, Nat.not_lt.1 h]

theorem rate_error (s : State) (k : Cause) :
    s.rate = .error k ↔
      (k = .estUnderdetermined ∧ (s.ancn < 2 ∨ s.den = 0)) ∨
        (2 ≤ s.ancn ∧ s.den ≠ 0 ∧ fit64 s.slope = .error k) := by
  unfold State.rate
  split
  · next h =>
    constructor
    · rintro ⟨⟩; exact .inl ⟨rfl, .inl h⟩
    · rintro (⟨rfl, -⟩ | ⟨h2, -⟩)
      · rfl
      · omega
  · next h =>
    split
    · next h2 => simp [h2, eq_comm]
    · next h2 => simp [h, h2, Nat.not_lt.1 h]

theorem frameToTime_ok (s : State) (f t : Word64) :
    s.frameToTime f = .ok t ↔
      ∃ w a, s.rate = .ok w ∧ s.newest = some a ∧ fit64 (queryTime a w f s.cfg.xprec) = .ok t := by
  unfold State.frameToTime
  cases s.rate with
  | error k => simp
  | ok w => cases s.newest <;> simp

theorem reference_ok (s : State) (a : Anchor) : s.reference = .ok a ↔ s.newest = some a := by
  unfold State.reference
  cases s.newest <;> simp

/-- `ANCADD` below capacity appends; at capacity it drops the oldest first. -/
theorem addAnchor_anchors (s : State) (a : Anchor) :
    (s.addAnchor a).anchors =
      (if s.ancn = s.cfg.aMax then s.anchors.tail else s.anchors) ++ [a] := by
  unfold State.addAnchor
  split
  · next h =>
    simp only [appendAnchor_anchors, State.evictOldest]
    cases hs : s.anchors <;> simp [hs]
  · simp

/-! The transactions. -/

/-- A command word is discarded, illegal, or executed (spec 60_exceptions R266). -/
theorem runCommand_cases (w : CmdWord) (s : State) :
    (s.faulted = true ∧ runCommand w s = .next s) ∨
      (s.faulted = false ∧ (∃ e, decode w = .error e) ∧
        runCommand w s = .next (s.enterFault .illegalCommand w)) ∨
      (s.faulted = false ∧ ∃ i, decode w = .ok i ∧ runCommand w s = exec i s) := by
  unfold runCommand
  cases s.faulted with
  | true => simp
  | false =>
    cases h : decode w with
    | error e => simp [raise]
    | ok i => simp

theorem step_nil (s : State) (h : s.input = []) : step s = .next s := by
  simp [step, nextTransaction, h]

theorem step_cons (s : State) (t : Transaction) (rest : List Transaction) (h : s.input = t :: rest) :
    step s = transact t { s with input := rest } := by
  simp [step, nextTransaction, h]

end Sys2Proof.Machine
end

