-- ==== Sys2Proof/Laws/PerInstr.lean ====
section
/-! SUPPORT. Per command: its word matches its own row of the opcode table (spec 30_encoding R93, R102). -/

namespace Sys2Proof.Laws

open Sys2Proof

/-- A row accepts a word exactly if it accepts it field by field. -/
theorem accepts_toWord (m : String) (mask mtch f : Fields) :
    (OpcodeRow.mk m mask.toWord mtch.toWord).accepts f.toWord = true ↔
      f.op &&& mask.op = mtch.op ∧ f.rd &&& mask.rd = mtch.rd ∧ f.ra &&& mask.ra = mtch.ra ∧
        f.rb &&& mask.rb = mtch.rb ∧ f.rc &&& mask.rc = mtch.rc ∧ f.fn &&& mask.fn = mtch.fn := by
  simp only [OpcodeRow.accepts, beq_iff_eq]
  have hand : f.toWord &&& mask.toWord =
      Fields.toWord ⟨f.op &&& mask.op, f.rd &&& mask.rd, f.ra &&& mask.ra, f.rb &&& mask.rb,
        f.rc &&& mask.rc, f.fn &&& mask.fn⟩ := by
    change (f.op ++ f.rd ++ f.ra ++ f.rb ++ f.rc ++ f.fn : BitVec (8 + 4 + 4 + 4 + 4 + 8)) &&&
        (mask.op ++ mask.rd ++ mask.ra ++ mask.rb ++ mask.rc ++ mask.fn) = _
    simp only [BitVec.and_append]
    rfl
  rw [hand]
  constructor
  · intro h
    have := congrArg Fields.ofWord h
    rw [ofWord_toWord, ofWord_toWord] at this
    cases mtch
    simpa using this
  · rintro ⟨h1, h2, h3, h4, h5, h6⟩
    cases mtch
    simp_all

theorem accepts_fields (m : String) (mask mtch : CmdWord) (f : Fields) :
    (OpcodeRow.mk m mask mtch).accepts f.toWord = true ↔
      f.op &&& (Fields.ofWord mask).op = (Fields.ofWord mtch).op ∧
        f.rd &&& (Fields.ofWord mask).rd = (Fields.ofWord mtch).rd ∧
        f.ra &&& (Fields.ofWord mask).ra = (Fields.ofWord mtch).ra ∧
        f.rb &&& (Fields.ofWord mask).rb = (Fields.ofWord mtch).rb ∧
        f.rc &&& (Fields.ofWord mask).rc = (Fields.ofWord mtch).rc ∧
        f.fn &&& (Fields.ofWord mask).fn = (Fields.ofWord mtch).fn := by
  have := accepts_toWord m (Fields.ofWord mask) (Fields.ofWord mtch) f
  rwa [toWord_ofWord, toWord_ofWord] at this

/-- A field under the mask of ones is itself, under the mask of zeros is zero. -/
theorem and_ones (n : Nat) (x : BitVec n) (m : BitVec n) (h : m = BitVec.allOnes n) : x &&& m = x := by
  subst h; exact BitVec.and_allOnes

theorem and_zeros (n : Nat) (x : BitVec n) (m : BitVec n) (h : m = 0#n) : x &&& m = 0#n := by
  subst h; exact BitVec.and_zero

namespace RowMatch

/-- The command's word matches a row of the opcode table with the command's mnemonic. -/
def Statement (i : Instr) : Prop :=
  ∃ r ∈ opcodeTable, r.mnemonic = i.mnemonic ∧ r.accepts (encode i) = true

theorem nop : Statement .nop := by
  refine ⟨⟨"NOP", 0xFFFFFFFF#32, 0x00000000#32⟩, by simp [opcodeTable], rfl, ?_⟩
  refine (accepts_fields _ _ _ _).2 ?_
  simp only [encodeFields]
  exact ⟨by decide, by decide, by decide, by decide, by decide, by decide⟩

theorem li (rd : Reg) (imm16 : BitVec 16) : Statement (.li rd imm16) := by
  refine ⟨⟨"LI", 0xFF0F0000#32, 0x01000000#32⟩, by simp [opcodeTable], rfl, ?_⟩
  refine (accepts_fields _ _ _ _).2 ?_
  simp only [encodeFields, immFields]
  exact ⟨by decide, and_zeros _ _ _ (by decide), by decide, and_zeros _ _ _ (by decide), and_zeros _ _ _ (by decide), and_zeros _ _ _ (by decide)⟩

theorem lis (rd : Reg) (imm16 : BitVec 16) : Statement (.lis rd imm16) := by
  refine ⟨⟨"LIS", 0xFF0F0000#32, 0x02000000#32⟩, by simp [opcodeTable], rfl, ?_⟩
  refine (accepts_fields _ _ _ _).2 ?_
  simp only [encodeFields, immFields]
  exact ⟨by decide, and_zeros _ _ _ (by decide), by decide, and_zeros _ _ _ (by decide), and_zeros _ _ _ (by decide), and_zeros _ _ _ (by decide)⟩

theorem csrr (rd : Reg) (csr : CsrNum) : Statement (.csrr rd csr) := by
  refine ⟨⟨"CSRR", 0xFF0FF000#32, 0x03000000#32⟩, by simp [opcodeTable], rfl, ?_⟩
  refine (accepts_fields _ _ _ _).2 ?_
  simp only [encodeFields]
  exact ⟨by decide, and_zeros _ _ _ (by decide), by decide, by decide, and_zeros _ _ _ (by decide), and_zeros _ _ _ (by decide)⟩

theorem bswap16 (rd ra : Reg) : Statement (.bswap16 rd ra) := by
  refine ⟨⟨"BSWAP16", 0xFF00FFFF#32, 0x10000000#32⟩, by simp [opcodeTable], rfl, ?_⟩
  refine (accepts_fields _ _ _ _).2 ?_
  simp only [encodeFields]
  exact ⟨by decide, and_zeros _ _ _ (by decide), and_zeros _ _ _ (by decide), by decide, by decide, by decide⟩

theorem bswap32 (rd ra : Reg) : Statement (.bswap32 rd ra) := by
  refine ⟨⟨"BSWAP32", 0xFF00FFFF#32, 0x11000000#32⟩, by simp [opcodeTable], rfl, ?_⟩
  refine (accepts_fields _ _ _ _).2 ?_
  simp only [encodeFields]
  exact ⟨by decide, and_zeros _ _ _ (by decide), and_zeros _ _ _ (by decide), by decide, by decide, by decide⟩

theorem fb3 (rd ra : Reg) : Statement (.fb3 rd ra) := by
  refine ⟨⟨"FB3", 0xFF00FFFF#32, 0x12000000#32⟩, by simp [opcodeTable], rfl, ?_⟩
  refine (accepts_fields _ _ _ _).2 ?_
  simp only [encodeFields]
  exact ⟨by decide, and_zeros _ _ _ (by decide), and_zeros _ _ _ (by decide), by decide, by decide, by decide⟩

theorem fb4 (rd ra : Reg) : Statement (.fb4 rd ra) := by
  refine ⟨⟨"FB4", 0xFF00FFFF#32, 0x13000000#32⟩, by simp [opcodeTable], rfl, ?_⟩
  refine (accepts_fields _ _ _ _).2 ?_
  simp only [encodeFields]
  exact ⟨by decide, and_zeros _ _ _ (by decide), and_zeros _ _ _ (by decide), by decide, by decide, by decide⟩

theorem fxw (rd ra : Reg) : Statement (.fxw rd ra) := by
  refine ⟨⟨"FXW", 0xFF00FFFF#32, 0x14000000#32⟩, by simp [opcodeTable], rfl, ?_⟩
  refine (accepts_fields _ _ _ _).2 ?_
  simp only [encodeFields]
  exact ⟨by decide, and_zeros _ _ _ (by decide), and_zeros _ _ _ (by decide), by decide, by decide, by decide⟩

theorem fxf (rd ra : Reg) : Statement (.fxf rd ra) := by
  refine ⟨⟨"FXF", 0xFF00FFFF#32, 0x15000000#32⟩, by simp [opcodeTable], rfl, ?_⟩
  refine (accepts_fields _ _ _ _).2 ?_
  simp only [encodeFields]
  exact ⟨by decide, and_zeros _ _ _ (by decide), and_zeros _ _ _ (by decide), by decide, by decide, by decide⟩

theorem clip8 (ra rb rc : Reg) : Statement (.clip8 ra rb rc) := by
  refine ⟨⟨"CLIP8", 0xFFF000FF#32, 0x20000000#32⟩, by simp [opcodeTable], rfl, ?_⟩
  refine (accepts_fields _ _ _ _).2 ?_
  simp only [encodeFields]
  exact ⟨by decide, by decide, and_zeros _ _ _ (by decide), and_zeros _ _ _ (by decide), and_zeros _ _ _ (by decide), by decide⟩

theorem clip16le (ra rb rc : Reg) : Statement (.clip16le ra rb rc) := by
  refine ⟨⟨"CLIP16LE", 0xFFF000FF#32, 0x20000001#32⟩, by simp [opcodeTable], rfl, ?_⟩
  refine (accepts_fields _ _ _ _).2 ?_
  simp only [encodeFields]
  exact ⟨by decide, by decide, and_zeros _ _ _ (by decide), and_zeros _ _ _ (by decide), and_zeros _ _ _ (by decide), by decide⟩

theorem clip24le (ra rb rc : Reg) : Statement (.clip24le ra rb rc) := by
  refine ⟨⟨"CLIP24LE", 0xFFF000FF#32, 0x20000002#32⟩, by simp [opcodeTable], rfl, ?_⟩
  refine (accepts_fields _ _ _ _).2 ?_
  simp only [encodeFields]
  exact ⟨by decide, by decide, and_zeros _ _ _ (by decide), and_zeros _ _ _ (by decide), and_zeros _ _ _ (by decide), by decide⟩

theorem clip32le (ra rb rc : Reg) : Statement (.clip32le ra rb rc) := by
  refine ⟨⟨"CLIP32LE", 0xFFF000FF#32, 0x20000003#32⟩, by simp [opcodeTable], rfl, ?_⟩
  refine (accepts_fields _ _ _ _).2 ?_
  simp only [encodeFields]
  exact ⟨by decide, by decide, and_zeros _ _ _ (by decide), and_zeros _ _ _ (by decide), and_zeros _ _ _ (by decide), by decide⟩

theorem clip16be (ra rb rc : Reg) : Statement (.clip16be ra rb rc) := by
  refine ⟨⟨"CLIP16BE", 0xFFF000FF#32, 0x20000005#32⟩, by simp [opcodeTable], rfl, ?_⟩
  refine (accepts_fields _ _ _ _).2 ?_
  simp only [encodeFields]
  exact ⟨by decide, by decide, and_zeros _ _ _ (by decide), and_zeros _ _ _ (by decide), and_zeros _ _ _ (by decide), by decide⟩

theorem clip24be (ra rb rc : Reg) : Statement (.clip24be ra rb rc) := by
  refine ⟨⟨"CLIP24BE", 0xFFF000FF#32, 0x20000006#32⟩, by simp [opcodeTable], rfl, ?_⟩
  refine (accepts_fields _ _ _ _).2 ?_
  simp only [encodeFields]
  exact ⟨by decide, by decide, and_zeros _ _ _ (by decide), and_zeros _ _ _ (by decide), and_zeros _ _ _ (by decide), by decide⟩

theorem clip32be (ra rb rc : Reg) : Statement (.clip32be ra rb rc) := by
  refine ⟨⟨"CLIP32BE", 0xFFF000FF#32, 0x20000007#32⟩, by simp [opcodeTable], rfl, ?_⟩
  refine (accepts_fields _ _ _ _).2 ?_
  simp only [encodeFields]
  exact ⟨by decide, by decide, and_zeros _ _ _ (by decide), and_zeros _ _ _ (by decide), and_zeros _ _ _ (by decide), by decide⟩

theorem tof8 (ra rb rc : Reg) : Statement (.tof8 ra rb rc) := by
  refine ⟨⟨"TOF8", 0xFFF000FF#32, 0x21000000#32⟩, by simp [opcodeTable], rfl, ?_⟩
  refine (accepts_fields _ _ _ _).2 ?_
  simp only [encodeFields]
  exact ⟨by decide, by decide, and_zeros _ _ _ (by decide), and_zeros _ _ _ (by decide), and_zeros _ _ _ (by decide), by decide⟩

theorem tof16le (ra rb rc : Reg) : Statement (.tof16le ra rb rc) := by
  refine ⟨⟨"TOF16LE", 0xFFF000FF#32, 0x21000001#32⟩, by simp [opcodeTable], rfl, ?_⟩
  refine (accepts_fields _ _ _ _).2 ?_
  simp only [encodeFields]
  exact ⟨by decide, by decide, and_zeros _ _ _ (by decide), and_zeros _ _ _ (by decide), and_zeros _ _ _ (by decide), by decide⟩

theorem tof24le (ra rb rc : Reg) : Statement (.tof24le ra rb rc) := by
  refine ⟨⟨"TOF24LE", 0xFFF000FF#32, 0x21000002#32⟩, by simp [opcodeTable], rfl, ?_⟩
  refine (accepts_fields _ _ _ _).2 ?_
  simp only [encodeFields]
  exact ⟨by decide, by decide, and_zeros _ _ _ (by decide), and_zeros _ _ _ (by decide), and_zeros _ _ _ (by decide), by decide⟩

theorem tof32le (ra rb rc : Reg) : Statement (.tof32le ra rb rc) := by
  refine ⟨⟨"TOF32LE", 0xFFF000FF#32, 0x21000003#32⟩, by simp [opcodeTable], rfl, ?_⟩
  refine (accepts_fields _ _ _ _).2 ?_
  simp only [encodeFields]
  exact ⟨by decide, by decide, and_zeros _ _ _ (by decide), and_zeros _ _ _ (by decide), and_zeros _ _ _ (by decide), by decide⟩

theorem tof16be (ra rb rc : Reg) : Statement (.tof16be ra rb rc) := by
  refine ⟨⟨"TOF16BE", 0xFFF000FF#32, 0x21000005#32⟩, by simp [opcodeTable], rfl, ?_⟩
  refine (accepts_fields _ _ _ _).2 ?_
  simp only [encodeFields]
  exact ⟨by decide, by decide, and_zeros _ _ _ (by decide), and_zeros _ _ _ (by decide), and_zeros _ _ _ (by decide), by decide⟩

theorem tof24be (ra rb rc : Reg) : Statement (.tof24be ra rb rc) := by
  refine ⟨⟨"TOF24BE", 0xFFF000FF#32, 0x21000006#32⟩, by simp [opcodeTable], rfl, ?_⟩
  refine (accepts_fields _ _ _ _).2 ?_
  simp only [encodeFields]
  exact ⟨by decide, by decide, and_zeros _ _ _ (by decide), and_zeros _ _ _ (by decide), and_zeros _ _ _ (by decide), by decide⟩

theorem tof32be (ra rb rc : Reg) : Statement (.tof32be ra rb rc) := by
  refine ⟨⟨"TOF32BE", 0xFFF000FF#32, 0x21000007#32⟩, by simp [opcodeTable], rfl, ?_⟩
  refine (accepts_fields _ _ _ _).2 ?_
  simp only [encodeFields]
  exact ⟨by decide, by decide, and_zeros _ _ _ (by decide), and_zeros _ _ _ (by decide), and_zeros _ _ _ (by decide), by decide⟩

theorem firrst : Statement .firrst := by
  refine ⟨⟨"FIRRST", 0xFFFFFFFF#32, 0x30000000#32⟩, by simp [opcodeTable], rfl, ?_⟩
  refine (accepts_fields _ _ _ _).2 ?_
  simp only [encodeFields]
  exact ⟨by decide, by decide, by decide, by decide, by decide, by decide⟩

theorem firpush (rd ra : Reg) : Statement (.firpush rd ra) := by
  refine ⟨⟨"FIRPUSH", 0xFF00FFFF#32, 0x31000000#32⟩, by simp [opcodeTable], rfl, ?_⟩
  refine (accepts_fields _ _ _ _).2 ?_
  simp only [encodeFields]
  exact ⟨by decide, and_zeros _ _ _ (by decide), and_zeros _ _ _ (by decide), by decide, by decide, by decide⟩

theorem firnom (ra rb : Reg) : Statement (.firnom ra rb) := by
  refine ⟨⟨"FIRNOM", 0xFFF00FFF#32, 0x32000000#32⟩, by simp [opcodeTable], rfl, ?_⟩
  refine (accepts_fields _ _ _ _).2 ?_
  simp only [encodeFields]
  exact ⟨by decide, by decide, and_zeros _ _ _ (by decide), and_zeros _ _ _ (by decide), by decide, by decide⟩

theorem tsinit : Statement .tsinit := by
  refine ⟨⟨"TSINIT", 0xFFFFFFFF#32, 0x33000000#32⟩, by simp [opcodeTable], rfl, ?_⟩
  refine (accepts_fields _ _ _ _).2 ?_
  simp only [encodeFields]
  exact ⟨by decide, by decide, by decide, by decide, by decide, by decide⟩

theorem tstamp (rd ra : Reg) : Statement (.tstamp rd ra) := by
  refine ⟨⟨"TSTAMP", 0xFF00FFFF#32, 0x34000000#32⟩, by simp [opcodeTable], rfl, ?_⟩
  refine (accepts_fields _ _ _ _).2 ?_
  simp only [encodeFields]
  exact ⟨by decide, and_zeros _ _ _ (by decide), and_zeros _ _ _ (by decide), by decide, by decide, by decide⟩

theorem anclr : Statement .anclr := by
  refine ⟨⟨"ANCLR", 0xFFFFFFFF#32, 0x40000000#32⟩, by simp [opcodeTable], rfl, ?_⟩
  refine (accepts_fields _ _ _ _).2 ?_
  simp only [encodeFields]
  exact ⟨by decide, by decide, by decide, by decide, by decide, by decide⟩

theorem ancadd (ra rb : Reg) : Statement (.ancadd ra rb) := by
  refine ⟨⟨"ANCADD", 0xFFF00FFF#32, 0x41000000#32⟩, by simp [opcodeTable], rfl, ?_⟩
  refine (accepts_fields _ _ _ _).2 ?_
  simp only [encodeFields]
  exact ⟨by decide, by decide, and_zeros _ _ _ (by decide), and_zeros _ _ _ (by decide), by decide, by decide⟩

theorem ancnt (rd : Reg) : Statement (.ancnt rd) := by
  refine ⟨⟨"ANCNT", 0xFF0FFFFF#32, 0x42000000#32⟩, by simp [opcodeTable], rfl, ?_⟩
  refine (accepts_fields _ _ _ _).2 ?_
  simp only [encodeFields]
  exact ⟨by decide, and_zeros _ _ _ (by decide), by decide, by decide, by decide, by decide⟩

theorem ancf (rd : Reg) : Statement (.ancf rd) := by
  refine ⟨⟨"ANCF", 0xFF0FFFFF#32, 0x43000000#32⟩, by simp [opcodeTable], rfl, ?_⟩
  refine (accepts_fields _ _ _ _).2 ?_
  simp only [encodeFields]
  exact ⟨by decide, and_zeros _ _ _ (by decide), by decide, by decide, by decide, by decide⟩

theorem anct (rd : Reg) : Statement (.anct rd) := by
  refine ⟨⟨"ANCT", 0xFF0FFFFF#32, 0x44000000#32⟩, by simp [opcodeTable], rfl, ?_⟩
  refine (accepts_fields _ _ _ _).2 ?_
  simp only [encodeFields]
  exact ⟨by decide, and_zeros _ _ _ (by decide), by decide, by decide, by decide, by decide⟩

theorem estrate (rd : Reg) : Statement (.estrate rd) := by
  refine ⟨⟨"ESTRATE", 0xFF0FFFFF#32, 0x45000000#32⟩, by simp [opcodeTable], rfl, ?_⟩
  refine (accepts_fields _ _ _ _).2 ?_
  simp only [encodeFields]
  exact ⟨by decide, and_zeros _ _ _ (by decide), by decide, by decide, by decide, by decide⟩

theorem estf2t (rd ra : Reg) : Statement (.estf2t rd ra) := by
  refine ⟨⟨"ESTF2T", 0xFF00FFFF#32, 0x46000000#32⟩, by simp [opcodeTable], rfl, ?_⟩
  refine (accepts_fields _ _ _ _).2 ?_
  simp only [encodeFields]
  exact ⟨by decide, and_zeros _ _ _ (by decide), and_zeros _ _ _ (by decide), by decide, by decide, by decide⟩

end RowMatch

end Sys2Proof.Laws
end

