-- ==== Sys2Proof/Tests/Slice0.lean ====
section
/-! SUPPORT. The model's own tests: decoded words, one-step vectors of spec 95_test_vectors, and for every
statement with hypotheses a state and operands that meet them. -/

namespace Sys2Proof.Tests

open Sys2Proof Sys2Proof.Machine

/-! ## Words: every expected command is read off spec 30_encoding R94 -/

/-- The words of spec 95_test_vectors sections 2.1, 2.2 (encodings), and those of R121 to R126 by hand. -/
theorem test_decode_system :
    decode 0x00000000#32 = .ok .nop ∧ decode 0x01103B9A#32 = .ok (.li 1 0x3B9A) ∧
      decode 0x0210CA00#32 = .ok (.lis 1 0xCA00) ∧ decode 0x03200011#32 = .ok (.csrr 2 0x011) := by decide

theorem test_decode_primitives :
    decode 0x10A60000#32 = .ok (.bswap16 10 6) ∧ decode 0x11960000#32 = .ok (.bswap32 9 6) ∧
      decode 0x12210000#32 = .ok (.fb3 2 1) ∧ decode 0x13650000#32 = .ok (.fb4 6 5) ∧
      decode 0x14320000#32 = .ok (.fxw 3 2) ∧ decode 0x15420000#32 = .ok (.fxf 4 2) := by decide

theorem test_decode_clip :
    decode 0x20012300#32 = .ok (.clip8 1 2 3) ∧ decode 0x20012301#32 = .ok (.clip16le 1 2 3) ∧
      decode 0x20012302#32 = .ok (.clip24le 1 2 3) ∧ decode 0x20012303#32 = .ok (.clip32le 1 2 3) ∧
      decode 0x20012305#32 = .ok (.clip16be 1 2 3) ∧ decode 0x20012306#32 = .ok (.clip24be 1 2 3) ∧
      decode 0x20012307#32 = .ok (.clip32be 1 2 3) := by decide

theorem test_decode_tof :
    decode 0x21012300#32 = .ok (.tof8 1 2 3) ∧ decode 0x21012301#32 = .ok (.tof16le 1 2 3) ∧
      decode 0x21012302#32 = .ok (.tof24le 1 2 3) ∧ decode 0x21012303#32 = .ok (.tof32le 1 2 3) ∧
      decode 0x21012305#32 = .ok (.tof16be 1 2 3) ∧ decode 0x21012306#32 = .ok (.tof24be 1 2 3) ∧
      decode 0x21012307#32 = .ok (.tof32be 1 2 3) := by decide

theorem test_decode_filter :
    decode 0x30000000#32 = .ok .firrst ∧ decode 0x31210000#32 = .ok (.firpush 2 1) ∧
      decode 0x32012000#32 = .ok (.firnom 1 2) ∧ decode 0x33000000#32 = .ok .tsinit ∧
      decode 0x34210000#32 = .ok (.tstamp 2 1) := by decide

theorem test_decode_estimator :
    decode 0x40000000#32 = .ok .anclr ∧ decode 0x41012000#32 = .ok (.ancadd 1 2) ∧
      decode 0x42300000#32 = .ok (.ancnt 3) ∧ decode 0x43400000#32 = .ok (.ancf 4) ∧
      decode 0x44500000#32 = .ok (.anct 5) ∧ decode 0x45600000#32 = .ok (.estrate 6) ∧
      decode 0x46870000#32 = .ok (.estf2t 8 7) := by decide

/-- The constant and the command count of spec 95_test_vectors section 2.5. -/
theorem test_li64_expansion :
    (li64 6 0x0001000000000000#64).map encode =
      [0x01600001#32, 0x02600000#32, 0x02600000#32, 0x02600000#32] ∧
      (li64 5 0#64).map encode = [0x01500000#32] := by decide

/-- The syntax examples of spec 30_encoding R100. -/
theorem test_assembly :
    (Instr.clip16le 1 2 3).assembly = "CLIP16LE [d1], [d2], d3" ∧
      (Instr.fb3 2 1).assembly = "FB3 d2, [d1]" ∧ Instr.nop.assembly = "NOP" := by decide

/-! ## Ill-formed words and parameters: one per check of `WellFormed` -/

/-- Words of spec 95_test_vectors section 2.6, and the four kinds of spec 30_encoding R98: an opcode that is not
in the table. -/
theorem test_illegal_opcode :
    legalWord 0x04000000#32 = false ∧ legalWord 0x47000000#32 = false ∧
      decode 0x04000000#32 = .error (.unknownOpcode 0x04) ∧
      decode 0x47000000#32 = .error (.unknownOpcode 0x47) := by decide

/-- A must-be-zero field that is not zero. -/
theorem test_illegal_field :
    legalWord 0x00100000#32 = false ∧ legalWord 0x01010000#32 = false ∧
      legalWord 0x10001000#32 = false ∧ legalWord 0x10000100#32 = false ∧
      decode 0x00100000#32 = .error .nonZeroField ∧ decode 0x01010000#32 = .error .nonZeroField ∧
      decode 0x10001000#32 = .error .nonZeroField ∧ decode 0x10000100#32 = .error .nonZeroField := by
  decide

/-- A function code outside R97, and a function code where the format has none. -/
theorem test_illegal_function_code :
    legalWord 0x20012304#32 = false ∧ legalWord 0x21012308#32 = false ∧ legalWord 0x00000001#32 = false ∧
      decode 0x20012304#32 = .error (.undefinedFn 0x04) ∧
      decode 0x21012308#32 = .error (.undefinedFn 0x08) ∧
      decode 0x00000001#32 = .error .nonZeroField := by decide

/-- `CSRR` with `imm16[15:12]` not zero. -/
theorem test_illegal_csr_field :
    legalWord 0x03001000#32 = false ∧ decode 0x03001000#32 = .error .nonZeroField := by decide

/-- A legal word is accepted by the table. -/
theorem test_legal_word : legalWord 0x20012307#32 = true := by decide

/-- Parameters out of the ranges of spec 00_scope R7. -/
theorem test_illegal_parameters :
    ¬ Config.Valid ⟨255, 1, 4096⟩ ∧ ¬ Config.Valid ⟨2 ^ 32 + 1, 1, 4096⟩ ∧ ¬ Config.Valid ⟨256, 0, 4096⟩ ∧
      ¬ Config.Valid ⟨256, 2 ^ 64, 4096⟩ ∧ ¬ Config.Valid ⟨256, 1, 1⟩ ∧ ¬ Config.Valid ⟨256, 1, 4097⟩ ∧
      Config.Valid Config.platform := by decide

/-! ## Helpers -/

/-- The state a command leaves. -/
def ran (i : Instr) (s : State) : State :=
  match exec i s with
  | .next t => t
  | .fault _ => s
  | .refused _ => s

/-- The reset state with these registers. -/
def withRegs (l : List (Reg × Word64)) : State := l.foldl (fun s p => s.setReg p.1 p.2) State.reset

/-- A state with these bytes at an address. -/
def put (a : Nat) (bs : List Byte) (s : State) : State := s.storeBytes a bs

/-- A state whose FIFO took these anchors after reset. -/
def fifo (c : Config) (l : List Anchor) : State :=
  l.foldl State.addAnchor { State.reset with cfg := c }

/-- A state with these transactions pending. -/
def asked (l : List Transaction) (s : State) : State := { s with input := l }

/-- What a fault test looks at: `STATUS`, `FCMD`. -/
def faultOf (s : State) : BitVec 16 × CmdWord := (s.status, s.fcmd)

/-! ## One step: expected results from spec 95_test_vectors and the examples of the rules -/

theorem test_nop : ran .nop (withRegs [(3, 7)]) = withRegs [(3, 7)] := by decide

/-- Section 2.5: the old value is dropped whole. -/
theorem test_li : (ran (.li 1 0xFFFF) (withRegs [(1, 0xFFFFFFFFFFFFFFFF)])).reg 1 = 0xFFFF#64 := by decide

/-- Section 2.5: the top 16 bits are lost. -/
theorem test_lis :
    (ran (.lis 3 0x1111) (withRegs [(3, 0x123456789ABCDEF0)])).reg 3 = 0x56789ABCDEF01111#64 := by decide

/-- Section 2.5: `BLKID`, and a coefficient. -/
theorem test_csrr :
    (ran (.csrr 1 0x0F0) State.reset).reg 1 = 0x41554A5300000001#64 ∧
      (ran (.csrr 8 0x085) State.reset).reg 8 = 14#64 := by decide

/-- Section 2.5: `CSRR d1, 0x061` raises `BadCsr`. -/
theorem test_csrr_undefined : faultOf (ran (.csrr 1 0x061) State.reset) = (0x0A01#16, 0x03100061#32) := by
  decide

/-- Section 2.1: the upper bits are ignored. -/
theorem test_bswap16 : (ran (.bswap16 2 1) (withRegs [(1, 0xFFFFFFFFFFFF1234)])).reg 2 = 0x3412#64 := by
  decide

theorem test_bswap32 : (ran (.bswap32 2 1) (withRegs [(1, 0xDEADBEEF12345678)])).reg 2 = 0x78563412#64 := by
  decide

/-- Scenario S4. -/
theorem test_fb3 : (ran (.fb3 2 1) (put 0 [0x67, 0x06, 0x0B] State.reset)).reg 2 = 0x002C199C#64 := by
  decide

/-- Section 2.1: the sum `a + 3` is on unbounded integers. -/
theorem test_fb3_range :
    faultOf (ran (.fb3 2 1) (withRegs [(1, 0xFFFFFFFFFFFFFFFF)])) = (0x0201#16, 0x12210000#32) := by decide

theorem test_fb4 : (ran (.fb4 2 1) (put 0 [0x9A, 0x19, 0x2C, 0x00] State.reset)).reg 2 = 0x002C199A#64 := by
  decide

/-- Section 2.1, `rd = ra`, upper bits ignored. -/
theorem test_fxw : (ran (.fxw 2 2) (withRegs [(2, 0xAAAAAAAA002C199C)])).reg 2 = 44#64 := by decide

theorem test_fxf : (ran (.fxf 2 2) (withRegs [(2, 0xFFFFFFFF)])).reg 2 = 65535000#64 := by decide

/-- One sample 1/3 (`3EAAAAAB`) at 0, the destination at 16. -/
def oneThird : State := put 0 [0xAB, 0xAA, 0xAA, 0x3E] (withRegs [(1, 16), (3, 1)])

/-- Section 2.2, "Byte order, all seven forward commands on the one sample 1/3". -/
theorem test_clip8 : (ran (.clip8 1 2 3) oneThird).mem.readBytes 16 1 = [0x2A] := by decide

theorem test_clip16le : (ran (.clip16le 1 2 3) oneThird).mem.readBytes 16 2 = [0xAA, 0x2A] := by decide

theorem test_clip16be : (ran (.clip16be 1 2 3) oneThird).mem.readBytes 16 2 = [0x2A, 0xAA] := by decide

theorem test_clip24le : (ran (.clip24le 1 2 3) oneThird).mem.readBytes 16 3 = [0xAA, 0xAA, 0x2A] := by
  decide

theorem test_clip24be : (ran (.clip24be 1 2 3) oneThird).mem.readBytes 16 3 = [0x2A, 0xAA, 0xAA] := by
  decide

theorem test_clip32le : (ran (.clip32le 1 2 3) oneThird).mem.readBytes 16 4 = [0xC0, 0xAA, 0xAA, 0x2A] := by
  decide

theorem test_clip32be : (ran (.clip32be 1 2 3) oneThird).mem.readBytes 16 4 = [0x2A, 0xAA, 0xAA, 0xC0] := by
  decide

/-- Section 2.2, table: a negative value below one unit truncates to 0 at 8 bits and floors to -1 at 24; the
clip of -1.1 and of infinity; a NaN has no result. -/
theorem test_clipconv_corners :
    clipconv .w8 0xBB800000#32 = some 0x00 ∧ clipconv .w24 0xB0000000#32 = some 0xFFFFFF ∧
      clipconv .w24 0xBF7FBE77#32 = some 0x8020C4 ∧ clipconv .w16 0xBF8CCCCD#32 = some 0x8000 ∧
      clipconv .w32 0x7F800000#32 = some 0x7FFFFFFF ∧ clipconv .w32 0xFFC00000#32 = none := by decide

/-- Section 2.2: a NaN in the second sample, the first is not written either. -/
theorem test_clip_nan :
    let s := put 0 [0x00, 0x00, 0x00, 0x3F, 0x01, 0x00, 0x80, 0x7F] (withRegs [(1, 0x20), (3, 2)])
    faultOf (ran (.clip16le 1 2 3) s) = (0x0401#16, 0x20012301#32) ∧
      (ran (.clip16le 1 2 3) s).mem = s.mem := by decide

/-- Section 2.2: one shared byte, and the neighbours that share none. -/
theorem test_clip_overlap :
    faultOf (ran (.clip8 1 2 3) (withRegs [(1, 0x17), (2, 0x10), (3, 2)])) = (0x0301#16, 0x20012300#32) ∧
      faultOf (ran (.clip8 1 2 3) (withRegs [(1, 0x18), (2, 0x10), (3, 2)])) = (0#16, 0#32) ∧
      faultOf (ran (.clip8 1 2 3) (withRegs [(1, 0x0E), (2, 0x10), (3, 2)])) = (0#16, 0#32) := by decide

/-- Section 2.2: `4 x 2^62` does not wrap; empty ranges at and behind the end of `MEM`. -/
theorem test_clip_range :
    faultOf (ran (.clip32le 1 2 3) (withRegs [(2, 0x10), (3, 0x4000000000000000)])) =
        (0x0201#16, 0x20012303#32) ∧
      faultOf (ran (.clip32be 1 2 3) (withRegs [(1, 0x100), (2, 0x100)])) = (0#16, 0#32) ∧
      faultOf (ran (.tof8 1 2 3) (withRegs [(1, 0x101)])) = (0x0201#16, 0x21012300#32) := by decide

/-- Samples at 0, the destination at 16, a count of 3. -/
def samples (bs : List Byte) : State := put 0 bs (withRegs [(1, 16), (3, 3)])

/-- The twelve bytes a command writes. -/
def floats (i : Instr) (bs : List Byte) : List Byte := (ran i (samples bs)).mem.readBytes 16 12

/-- Section 2.2, "Inverse, whole commands": 0.5, -1, the greatest positive integer. -/
theorem test_tof8 : floats (.tof8 1 2 3) [0x40, 0x80, 0x7F] =
    [0x00, 0x00, 0x00, 0x3F, 0x00, 0x00, 0x80, 0xBF, 0x00, 0x00, 0x7E, 0x3F] := by decide

theorem test_tof16le : floats (.tof16le 1 2 3) [0x00, 0x40, 0x00, 0x80, 0xFF, 0x7F] =
    [0x00, 0x00, 0x00, 0x3F, 0x00, 0x00, 0x80, 0xBF, 0x00, 0xFE, 0x7F, 0x3F] := by decide

theorem test_tof16be : floats (.tof16be 1 2 3) [0x40, 0x00, 0x80, 0x00, 0x7F, 0xFF] =
    [0x00, 0x00, 0x00, 0x3F, 0x00, 0x00, 0x80, 0xBF, 0x00, 0xFE, 0x7F, 0x3F] := by decide

theorem test_tof24le :
    floats (.tof24le 1 2 3) [0x00, 0x00, 0x40, 0x00, 0x00, 0x80, 0xFF, 0xFF, 0x7F] =
      [0x00, 0x00, 0x00, 0x3F, 0x00, 0x00, 0x80, 0xBF, 0xFE, 0xFF, 0x7F, 0x3F] := by decide

theorem test_tof24be :
    floats (.tof24be 1 2 3) [0x40, 0x00, 0x00, 0x80, 0x00, 0x00, 0x7F, 0xFF, 0xFF] =
      [0x00, 0x00, 0x00, 0x3F, 0x00, 0x00, 0x80, 0xBF, 0xFE, 0xFF, 0x7F, 0x3F] := by decide

theorem test_tof32le :
    floats (.tof32le 1 2 3) [0x00, 0x00, 0x00, 0x40, 0x00, 0x00, 0x00, 0x80, 0xFF, 0xFF, 0xFF, 0x7F] =
      [0x00, 0x00, 0x00, 0x3F, 0x00, 0x00, 0x80, 0xBF, 0x00, 0x00, 0x80, 0x3F] := by decide

theorem test_tof32be :
    floats (.tof32be 1 2 3) [0x40, 0x00, 0x00, 0x00, 0x80, 0x00, 0x00, 0x00, 0x7F, 0xFF, 0xFF, 0xFF] =
      [0x00, 0x00, 0x00, 0x3F, 0x00, 0x00, 0x80, 0xBF, 0x00, 0x00, 0x80, 0x3F] := by decide

/-- Section 2.2, inverse table at 32 bits: both ties, and the carry out of 25 ones. -/
theorem test_tofloat_ties :
    tofloat .w32 0x01000001 = 0x3C000000#32 ∧ tofloat .w32 0x01000003 = 0x3C000002#32 ∧
      tofloat .w32 0x01FFFFFF = 0x3C800000#32 ∧ tofloat .w32 0x7FFFFF40 = 0x3F7FFFFE#32 := by decide

/-- The example of spec 42_jitter_fir R184. -/
theorem test_firrst : (ran .firrst { State.reset with firiter := 40 }).firiter = 0#32 := by decide

/-- The filter primed with 1000. -/
def primed1000 : State := ran (.firpush 2 1) (withRegs [(1, 1000)])

/-- The example of spec 42_jitter_fir R185: 1000, then 2000 gives 1250. -/
theorem test_firpush :
    (ran (.firpush 2 1) (primed1000.setReg 1 2000)).reg 2 = 1250#64 ∧ primed1000.reg 2 = 1000#64 ∧
      (ran (.firpush 2 1) (primed1000.setReg 1 2000)).firwp = 1#6 := by decide

/-- The impulse response (spec 42_jitter_fir R190) three samples on: the full filter gives `C[3] = 7`. -/
theorem test_firpush_full :
    let s := { State.reset with
      firiter := 40, firwp := 2, firdata := (Vector.replicate 33 0#64).set 32 1024#64 }
    (ran (.firpush 2 1) s).reg 2 = 7#64 := by decide

/-- Section 2.3, `FIRNOM` table. -/
theorem test_firnom :
    (ran (.firnom 1 2) (withRegs [(1, 1000), (2, 44100)])).firnom = 22675736#64 ∧
      (ran (.firnom 1 2) (withRegs [(1, 1000), (2, 44100)])).nomValid = true := by decide

theorem test_firnom_faults :
    faultOf (ran (.firnom 1 2) (withRegs [(1, 12000)])) = (0x0501#16, 0x32012000#32) ∧
      faultOf (ran (.firnom 1 2) (withRegs [(1, 18446744074), (2, 1)])) = (0x0601#16, 0x32012000#32) := by
  decide

/-- The example of spec 42_jitter_fir R187: `FIRCTL` 0x2 becomes 0x3. -/
theorem test_tsinit : (ran .tsinit { State.reset with firctl := 2#2 }).firctl = 3#2 := by decide

/-- Section 2.3, `TSTAMP` sequence 1. -/
theorem test_tstamp_not_configured :
    faultOf (ran (.tstamp 2 1) (withRegs [(1, 1000)])) = (0x0801#16, 0x34210000#32) := by decide

/-- The filter just primed by a `TSTAMP` at raw 1 000 000 000 with a nominal delta of 250 000 000. -/
def stamped : State :=
  ran (.tstamp 2 1) { withRegs [(1, 1000000000)] with firctl := 3#2, firnom := 250000000 }

/-- The example of spec 42_jitter_fir R188. -/
theorem test_tstamp :
    stamped.reg 2 = 1000000000#64 ∧
      (ran (.tstamp 2 1) (stamped.setReg 1 1250400000)).reg 2 = 1250100000#64 := by decide

/-- The three anchors of the example of spec 43_rate_estimator R213. -/
def row1 : State :=
  fifo Config.platform [⟨1000, 5000000000⟩, ⟨1100, 5100000000⟩, ⟨1200, 5200000000⟩]

theorem test_anclr : (ran .anclr row1).ancn = 0 ∧ (ran .anclr row1).sx = 0#76 := by decide

/-- The example of spec 43_rate_estimator R213, its last step. -/
theorem test_ancadd :
    let s := ran (.ancadd 1 2) ((fifo Config.platform
      [⟨1000, 5000000000⟩, ⟨1100, 5100000000⟩]).setReg 1 1200 |>.setReg 2 5200000000)
    s.ancn = 3 ∧ s.sx = 3300#76 ∧ s.sy = 15300000000#76 ∧ s.sxx = 3650000#140 ∧
      s.sxy = 16850000000000#140 := by decide

/-- A FIFO of two places: the oldest goes, `ANCHEAD` moves on (spec 43_rate_estimator R213, corner cases). -/
theorem test_ancadd_evicts :
    let s := ran (.ancadd 1 2) ((fifo ⟨256, 1, 2⟩ [⟨1, 10⟩, ⟨2, 20⟩]).setReg 1 3 |>.setReg 2 30)
    s.anchors = [⟨2, 20⟩, ⟨3, 30⟩] ∧ s.anchead = 1#12 ∧ s.sx = 5#76 ∧ s.sxy = 130#140 ∧
      s.slot 0 = some ⟨3, 30⟩ := by decide

/-- The examples of spec 43_rate_estimator R214 to R216, R221, R225. -/
theorem test_ancnt : (ran (.ancnt 3) row1).reg 3 = 3#64 := by decide

theorem test_ancf : (ran (.ancf 4) row1).reg 4 = 1200#64 := by decide

theorem test_anct : (ran (.anct 5) row1).reg 5 = 5200000000#64 := by decide

theorem test_estrate : (ran (.estrate 6) row1).reg 6 = 1000000#64 := by decide

/-- Section 2.4, rows 5 and 6. -/
theorem test_estrate_faults :
    faultOf (ran (.estrate 6) (fifo Config.platform [⟨10, 100⟩, ⟨20, 90⟩])) = (0x0601#16, 0x45600000#32) ∧
      faultOf (ran (.estrate 6) (fifo Config.platform [⟨5, 100⟩, ⟨5, 200⟩])) =
        (0x0901#16, 0x45600000#32) := by decide

/-- Section 2.4, row 2 with `XPREC = 1024`: the floor is toward minus infinity. -/
theorem test_estf2t :
    let s := fifo ⟨256, 1024, 4096⟩ [⟨0, 1000⟩, ⟨1, 2001⟩, ⟨2, 2999⟩, ⟨3, 4002⟩]
    (ran (.estf2t 8 7) (s.setReg 7 10)).reg 8 = 11004#64 ∧
      (ran (.estf2t 8 7) (s.setReg 7 1)).reg 8 = 2001#64 := by decide

/-- Spec 60_exceptions R264: while faulted a command word is discarded. -/
theorem test_faulted_discards :
    step (asked [.cmd 0x0110FFFF#32] { State.reset with status := 0x0101#16 }) =
      .next { State.reset with status := 0x0101#16 } := by rfl

/-- Spec 60_exceptions R270: `MEMWR` outside `MEM` is ignored entirely. -/
theorem test_memwr_outside : State.reset.hostWrite 255 [1, 2] = State.reset := by decide

/-- The host's fixed names on the word of `LI d1, 0x3B9A`. -/
theorem test_fetch_word :
    decodeTableWord 32 0x01103B9A = some (.li 1 0x3B9A) ∧
      step (State.reset.withFetchWord 32 0x01103B9A) = .next (ran (.li 1 0x3B9A) State.reset) := by
  exact ⟨by decide, rfl⟩

/-! ## Witnesses: states and operands that meet the hypotheses of the statements -/

/-- Every command's word is legal, so an illegal word is no command's. -/
theorem ne_encode_of_illegal (w : CmdWord) (h : legalWord w = false) (i : Instr) : w ≠ encode i := by
  rintro rfl
  obtain ⟨r, hr, -, ha⟩ : Laws.RowMatch.Statement i := by
    cases i
    case nop => exact Laws.RowMatch.nop
    case li => exact Laws.RowMatch.li _ _
    case lis => exact Laws.RowMatch.lis _ _
    case csrr => exact Laws.RowMatch.csrr _ _
    case bswap16 => exact Laws.RowMatch.bswap16 _ _
    case bswap32 => exact Laws.RowMatch.bswap32 _ _
    case fb3 => exact Laws.RowMatch.fb3 _ _
    case fb4 => exact Laws.RowMatch.fb4 _ _
    case fxw => exact Laws.RowMatch.fxw _ _
    case fxf => exact Laws.RowMatch.fxf _ _
    case clip8 => exact Laws.RowMatch.clip8 _ _ _
    case clip16le => exact Laws.RowMatch.clip16le _ _ _
    case clip24le => exact Laws.RowMatch.clip24le _ _ _
    case clip32le => exact Laws.RowMatch.clip32le _ _ _
    case clip16be => exact Laws.RowMatch.clip16be _ _ _
    case clip24be => exact Laws.RowMatch.clip24be _ _ _
    case clip32be => exact Laws.RowMatch.clip32be _ _ _
    case tof8 => exact Laws.RowMatch.tof8 _ _ _
    case tof16le => exact Laws.RowMatch.tof16le _ _ _
    case tof24le => exact Laws.RowMatch.tof24le _ _ _
    case tof32le => exact Laws.RowMatch.tof32le _ _ _
    case tof16be => exact Laws.RowMatch.tof16be _ _ _
    case tof24be => exact Laws.RowMatch.tof24be _ _ _
    case tof32be => exact Laws.RowMatch.tof32be _ _ _
    case firrst => exact Laws.RowMatch.firrst
    case firpush => exact Laws.RowMatch.firpush _ _
    case firnom => exact Laws.RowMatch.firnom _ _
    case tsinit => exact Laws.RowMatch.tsinit
    case tstamp => exact Laws.RowMatch.tstamp _ _
    case anclr => exact Laws.RowMatch.anclr
    case ancadd => exact Laws.RowMatch.ancadd _ _
    case ancnt => exact Laws.RowMatch.ancnt _
    case ancf => exact Laws.RowMatch.ancf _
    case anct => exact Laws.RowMatch.anct _
    case estrate => exact Laws.RowMatch.estrate _
    case estf2t => exact Laws.RowMatch.estf2t _ _
  have legal : legalWord (encode i) = true := List.any_eq_true.2 ⟨r, hr, ha⟩
  exact Bool.false_ne_true (h.symm.trans legal)

/-- For each opcode that a statement names, a word with that opcode that is no command's. -/
def otherWords : List (BitVec 8 × CmdWord) :=
  [(0x00#8, 0x00000001#32), (0x01#8, 0x01010000#32), (0x02#8, 0x020F0000#32), (0x03#8, 0x03001000#32),
    (0x10#8, 0x10000100#32), (0x11#8, 0x11000001#32), (0x12#8, 0x12001000#32), (0x13#8, 0x13000001#32),
    (0x14#8, 0x14001000#32), (0x15#8, 0x15000001#32), (0x30#8, 0x30100000#32)] ++
  [(0x31#8, 0x31001000#32), (0x32#8, 0x32100000#32), (0x33#8, 0x33000001#32), (0x34#8, 0x34000001#32),
    (0x40#8, 0x40010000#32), (0x41#8, 0x41100000#32), (0x42#8, 0x42010000#32), (0x43#8, 0x43000001#32),
    (0x44#8, 0x44001000#32), (0x45#8, 0x45000100#32), (0x46#8, 0x46000001#32)]

theorem otherWords_illegal :
    (otherWords.all fun p => p.2.extractLsb' 24 8 == p.1 && !legalWord p.2) = true := by
  decide +kernel

/-- The hypotheses of `OtherWordsIllegal`, for each of those opcodes. -/
theorem witness_otherWordsIllegal :
    ∀ p ∈ otherWords,
      p.2.extractLsb' 24 8 = p.1 ∧ (∀ i, p.2 ≠ encode i) ∧ State.reset.faulted = false := by
  intro p hp
  have h := List.all_eq_true.1 otherWords_illegal p hp
  simp only [Bool.and_eq_true, beq_iff_eq, Bool.not_eq_true'] at h
  exact ⟨h.1, ne_encode_of_illegal _ h.2, by decide⟩

theorem witness_DecodedWordIsItsEncoding : decode 0x03F00FFF#32 = .ok (.csrr 15 0xFFF) := by decide

/-- A word of the last row, and one that no row accepts. -/
theorem witness_RowsSpellCommands :
    (⟨"ESTF2T", 0xFF00FFFF#32, 0x46000000#32⟩ ∈ opcodeTable ∧
        0x46FF0000#32 &&& 0xFF00FFFF#32 = 0x46000000#32) ∧
      ∀ r ∈ opcodeTable, 0x46FF0001#32 &&& r.mask ≠ r.mtch := by decide

theorem witness_LoadConstantExpansion : State.reset.faulted = false := by decide

/-- Numbers at the ends of the ranges of spec 44_system R254, and just outside them. -/
theorem witness_CsrReadOrBadCsr :
    (0x0A0, 1) ∈ csrTable State.reset ∧ (0x060, 0) ∈ csrTable State.reset ∧
      (0x0F3, 1) ∈ csrTable State.reset ∧ csrDefined (0x002#12).toNat = false ∧
      csrDefined (0x061#12).toNat = false ∧ csrDefined (0xFFF#12).toNat = false := by decide

/-- The last payload inside `MEM`, and the first outside. -/
theorem witness_FeedbackThreeBytes :
    ((withRegs [(1, 253)]).reg 1).toNat + 3 ≤ (withRegs [(1, 253)]).cfg.memSize ∧
      (withRegs [(1, 254)]).cfg.memSize < ((withRegs [(1, 254)]).reg 1).toNat + 3 := by decide

theorem witness_FeedbackFourBytes :
    ((withRegs [(1, 252)]).reg 1).toNat + 4 ≤ (withRegs [(1, 252)]).cfg.memSize ∧
      (withRegs [(1, 253)]).cfg.memSize < ((withRegs [(1, 253)]).reg 1).toNat + 4 := by decide

/-- Both hypotheses, each at the end of its range. -/
theorem witness_FixedPointPartsRecombine :
    ((withRegs [(1, 0xFFFFFFFF)]).reg 1).toNat < 2 ^ 32 ∧
      ((withRegs [(1, 253)]).reg 1).toNat + 3 ≤ (withRegs [(1, 253)]).cfg.memSize := by decide

/-- A source that ends at the end of `MEM`, next to a destination that ends where it starts. -/
theorem witness_ForwardConversionWrites :
    let s := put 252 [0x00, 0x00, 0x80, 0x7F] (withRegs [(1, 248), (2, 252), (3, 1)])
    s.mem.wf ∧ RangesInside s 1 2 (4 * 1) (4 * 1) ∧ ¬ RangesOverlap s 1 2 (4 * 1) (4 * 1) ∧
      ∀ i < 1, isNaN (floatAt s.mem ((s.reg 2).toNat + 4 * i)) = false := by
  unfold RangesInside RangesOverlap; decide

/-- One witness per fault: a source one byte too far, one shared byte, a NaN. -/
theorem witness_ForwardConversionFaults :
    let s := withRegs [(1, 0), (2, 253), (3, 1)]
    let u := withRegs [(1, 3), (2, 0), (3, 1)]
    let v := put 0 [0x01, 0x00, 0x80, 0x7F] (withRegs [(1, 4), (2, 0), (3, 1)])
    ¬ RangesInside s 1 2 (4 * 1) (4 * 1) ∧
      (RangesInside u 1 2 (4 * 1) (4 * 1) ∧ RangesOverlap u 1 2 (4 * 1) (4 * 1)) ∧
      RangesInside v 1 2 (4 * 1) (4 * 1) ∧ ¬ RangesOverlap v 1 2 (4 * 1) (4 * 1) ∧
      ∃ j < 1, isNaN (floatAt v.mem ((v.reg 2).toNat + 4 * j)) = true := by
  unfold RangesInside RangesOverlap; decide

theorem witness_InverseConversionWrites :
    let s := put 255 [0x80] (withRegs [(1, 251), (2, 255), (3, 1)])
    s.mem.wf ∧ RangesInside s 1 2 (1 * 1) (4 * 1) ∧ ¬ RangesOverlap s 1 2 (1 * 1) (4 * 1) := by
  unfold RangesInside RangesOverlap; decide

theorem witness_InverseConversionFaults :
    let s := withRegs [(1, 253), (2, 0), (3, 1)]
    let u := withRegs [(1, 0), (2, 3), (3, 1)]
    ¬ RangesInside s 1 2 (1 * 1) (4 * 1) ∧
      RangesInside u 1 2 (1 * 1) (4 * 1) ∧ RangesOverlap u 1 2 (1 * 1) (4 * 1) := by
  unfold RangesInside RangesOverlap; decide

/-- 1, -1 and 2^-8 as binary32 words: the boundaries of the conversion statements. -/
theorem f32Rat_one : f32Rat 0x3F800000#32 = some 1 := by
  simp only [f32Rat, show ((0x3F800000#32).extractLsb' 23 8).toNat = 127 from rfl,
    show ((0x3F800000#32).extractLsb' 0 23).toNat = 0 from rfl,
    show (0x3F800000#32).getLsbD 31 = false from rfl]
  norm_num

theorem f32Rat_minus_one : f32Rat 0xBF800000#32 = some (-1) := by
  simp only [f32Rat, show ((0xBF800000#32).extractLsb' 23 8).toNat = 127 from rfl,
    show ((0xBF800000#32).extractLsb' 0 23).toNat = 0 from rfl,
    show (0xBF800000#32).getLsbD 31 = true from rfl]
  norm_num

theorem f32Rat_eighth_power : f32Rat 0x3B800000#32 = some (1 / 2 ^ 8) := by
  simp only [f32Rat, show ((0x3B800000#32).extractLsb' 23 8).toNat = 119 from rfl,
    show ((0x3B800000#32).extractLsb' 0 23).toNat = 0 from rfl,
    show (0x3B800000#32).getLsbD 31 = false from rfl]
  norm_num

/-- The least positive subnormal: far below `2^-8`. -/
theorem f32Rat_least : f32Rat 0x00000001#32 = some (1 / 2 ^ 149) := by
  simp only [f32Rat, show ((0x00000001#32).extractLsb' 23 8).toNat = 0 from rfl,
    show ((0x00000001#32).extractLsb' 0 23).toNat = 1 from rfl,
    show (0x00000001#32).getLsbD 31 = false from rfl]
  norm_num

theorem witness_ClipConvertIsExactArithmetic :
    isNaN 0x7F800001#32 = true ∧ f32Rat 0x3F800000#32 = some 1 := ⟨by decide, f32Rat_one⟩

theorem witness_SaturationGivesExtremeIntegers :
    (f32Rat 0x3F800000#32 = some 1 ∧ ∀ wc, upperRat wc ≤ 1) ∧
      f32Rat 0xBF800000#32 = some (-1) ∧ (-1 : ℚ) ≤ -1 := by
  refine ⟨⟨f32Rat_one, fun wc => ?_⟩, f32Rat_minus_one, le_refl _⟩
  cases wc <;> norm_num [upperRat, widthDepth]

theorem witness_InverseIsExactUpTo24Bits : 2 ^ 24 - 1 < 2 ^ widthDepth .w24 ∧ Width.w24 ≠ .w32 := by decide

theorem witness_InverseRoundsToNearestEven :
    2 ^ 32 - 1 < 2 ^ 32 ∧ f32Rat 0x3B800000#32 = some (1 / 2 ^ 8) := ⟨by decide, f32Rat_eighth_power⟩

/-- The float of least magnitude that comes back unchanged, the lower end of the range, and a value below
`2^-8`, which the first clause covers at every depth. -/
theorem witness_ConversionRoundTripIsClose :
    (f32Rat 0x3B800000#32 = some (1 / 2 ^ 8) ∧ (-1 : ℚ) ≤ 1 / 2 ^ 8 ∧ (1 / 2 ^ 8 : ℚ) ≤ 1 ∧
        1 / 2 ^ 8 ≤ |(1 / 2 ^ 8 : ℚ)|) ∧
      (f32Rat 0xBF800000#32 = some (-1) ∧ (-1 : ℚ) ≤ -1 ∧ (-1 : ℚ) ≤ 1) ∧
      f32Rat 0x00000001#32 = some (1 / 2 ^ 149) ∧ (-1 : ℚ) ≤ 1 / 2 ^ 149 ∧ (1 / 2 ^ 149 : ℚ) ≤ 1 := by
  refine ⟨⟨f32Rat_eighth_power, by norm_num, by norm_num, le_abs_self _⟩,
    ⟨f32Rat_minus_one, by norm_num⟩, f32Rat_least, ?_⟩
  norm_num

theorem witness_FilterPush : ({ State.reset with firwp := 32 } : State).firwp.toNat < 33 := by decide

/-- A sample is a 64-bit value. -/
theorem pushedSample_le (s : State) (v : Word64) (k : Nat) : pushedSample s v k ≤ 2 ^ 64 - 1 := by
  unfold pushedSample
  split <;> exact Nat.le_sub_one_of_lt (BitVec.isLt _)

/-- At the last push of the start-up filter and the first of the full one. -/
theorem witness_FilterOutputLiesAmongSamples :
    ∀ n ∈ [32#32, 33#32],
      let s := { State.reset with firiter := n }
      s.firwp.toNat < 33 ∧ s.firiter ≠ 0#32 ∧
        ∀ k < if s.firiter.toNat < 33 then 4 else 33,
          0 ≤ pushedSample s (s.reg 1) k ∧ pushedSample s (s.reg 1) k ≤ 2 ^ 64 - 1 := by
  intro n hn
  have h0 : n ≠ 0#32 := by
    simp only [List.mem_cons, List.not_mem_nil, or_false] at hn
    rcases hn with rfl | rfl <;> decide
  exact ⟨Nat.zero_lt_succ 32, h0, fun k _ => ⟨Nat.zero_le _, pushedSample_le _ _ _⟩⟩

/-- A rate of 0, a quotient just above the range, and the greatest quotient that fits. -/
theorem witness_NominalDeltaIsStored :
    ((withRegs [(1, 1)]).reg 2).toNat = 0 ∧
      (2 : ℤ) ^ 64 ≤ ⌊(10 ^ 9 * (18446744074 : ℕ) : ℚ) / (1 : ℕ)⌋ ∧
      ⌊(10 ^ 9 * (2 ^ 64 - 1 : ℕ) : ℚ) / (10 ^ 9 : ℕ)⌋ < 2 ^ 64 := by
  refine ⟨by decide, ?_, ?_⟩
  · rw [Int.le_floor]; norm_num
  · rw [Int.floor_lt]; norm_num

theorem witness_TimestampPrimes :
    (State.reset.initArmed = true ∧ State.reset.nomValid = false) ∧
      ({ State.reset with firctl := 3#2 } : State).initArmed = true ∧
      ({ State.reset with firctl := 3#2 } : State).nomValid = true := by decide

/-- A raw timestamp one below the previous one; a sum of exactly `2^64`; the greatest sum that fits. -/
theorem witness_TimestampFilters :
    let s := stamped.setReg 1 999999999
    let u := { stamped.setReg 1 1000000000 with
      tsfilt := 0xFFFFFFFFFFFFFFFF, firdata := Vector.replicate 33 2#64 }
    let v := { stamped.setReg 1 1000000000 with
      tsfilt := 0xFFFFFFFFFFFFFFFE, firdata := Vector.replicate 33 2#64 }
    (s.initArmed = false ∧ s.firwp.toNat < 33 ∧ (s.reg 1).toNat < s.tsraw.toNat) ∧
      (u.initArmed = false ∧ u.firwp.toNat < 33 ∧ u.tsraw.toNat ≤ (u.reg 1).toNat ∧
        2 ^ 64 ≤ u.tsfilt.toNat + filteredDelta u 0) ∧
      v.initArmed = false ∧ v.firwp.toNat < 33 ∧ v.tsraw.toNat ≤ (v.reg 1).toNat ∧
        v.tsfilt.toNat + filteredDelta v 0 < 2 ^ 64 := by decide

/-- A run of two timestamps. -/
theorem witness_TimestampsNeverRegress :
    let s := asked [.cmd (encode (.tstamp 2 1)), .regwr 1 1000000007, .cmd (encode (.tstamp 2 1))] stamped
    s.initArmed = false ∧ (∀ x ∈ s.input, x ≠ .reset ∧ x ≠ .cmd (encode .tsinit)) ∧
      ∃ t, Host.Core.run Sys2Proof.core 3 s = .next t :=
  ⟨by decide, by decide, _, rfl⟩

/-- One step for each of the four changes. -/
theorem witness_ConfigurationBitsChange :
    (∃ t, step (asked [.cmd (encode .tsinit)] stamped) = .next t ∧ stamped.initArmed = false ∧
        t.initArmed = true) ∧
      (∃ t, step (asked [.cmd (encode (.tstamp 2 1))] { stamped with firctl := 3#2 }) = .next t ∧
        t.initArmed = false) ∧
      (∃ t, step (asked [.cmd (encode (.firnom 1 2))] (withRegs [(1, 12000), (2, 48000)])) = .next t ∧
        t.nomValid = true) ∧
      ∃ t, step (asked [.reset] stamped) = .next t ∧ stamped.nomValid = true ∧ t.nomValid = false :=
  ⟨⟨_, rfl, by decide, by decide⟩, ⟨_, rfl, by decide⟩, ⟨_, rfl, by decide⟩, _, rfl, by decide, by decide⟩

theorem witness_ConstantPeriodReturnsRaw :
    let s := stamped.setReg 1 1250000000
    s.initArmed = false ∧ s.firwp.toNat < 33 ∧ s.firiter ≠ 0#32 ∧
      (∀ k : Fin 33, s.firdata[k] = 250000000#64) ∧ s.tsfilt = s.tsraw ∧
      (s.reg 1).toNat = s.tsraw.toNat + (250000000#64).toNat := by decide

/-- The parameters of the FIFO witnesses: two places, so that a FIFO is soon full. -/
def twoPlaces : Config := ⟨256, 1, 2⟩

/-- The invariant of a FIFO witness, from its parts. -/
theorem inv_of (s : State)
    (h : s.cfg.Valid ∧ s.mem = [] ∧ s.status = 0#16 ∧ s.fcmd = 0#32 ∧ s.firctl = 1#2 ∧ s.firnom = 0#64 ∧
      s.firwp = 0#6)
    (ha : s.ancn ≤ s.cfg.aMax ∧ s.anchead.toNat < s.cfg.aMax ∧ (s.ancn < s.cfg.aMax → s.anchead = 0#12))
    (hs : s.sx.toNat = anchorSum (fun a => a.frame.toNat) s.anchors ∧
      s.sy.toNat = anchorSum (fun a => a.time.toNat) s.anchors ∧
      s.sxx.toNat = anchorSum (fun a => a.frame.toNat * a.frame.toNat) s.anchors ∧
      s.sxy.toNat = anchorSum (fun a => a.frame.toNat * a.time.toNat) s.anchors) : Inv s := by
  obtain ⟨hc, hm, hst, hf, hfc, hn, hw⟩ := h
  have hnf : s.faulted = false := by rw [State.faulted, hst]; decide
  exact
    { cfg_valid := hc, mem_wf := by rw [hm]; decide, mem_inside := by rw [hm]; simp
      status_reserved := by rw [hst]; decide, no_fault := fun _ => ⟨hst, hf⟩
      fault_cause := by simp [hnf], fault_illegal := by simp [hnf]
      nomv_clear := fun _ => ⟨hn, by rw [State.initArmed, hfc]; decide⟩
      firwp_lt := by rw [hw]; decide, ancn_le := ha.1, anchead_lt := ha.2.1, anchead_zero := ha.2.2
      sx_sum := hs.1, sy_sum := hs.2.1, sxx_sum := hs.2.2.1, sxy_sum := hs.2.2.2 }

/-- One anchor in a FIFO of two places. -/
def oneAnchor : State := fifo twoPlaces [⟨5, 100⟩]

/-- A full FIFO after one eviction. -/
def fullFifo : State := fifo twoPlaces [⟨9, 9⟩, ⟨1000, 5000000000⟩, ⟨1100, 5100000000⟩]

/-- Two anchors of one frame number. -/
def equalFrames : State := fifo twoPlaces [⟨5, 100⟩, ⟨5, 200⟩]

/-- A falling time, and the steepest rate that fits. -/
def falling : State := fifo twoPlaces [⟨10, 100⟩, ⟨20, 90⟩]

def steepest : State := fifo twoPlaces [⟨0, 0⟩, ⟨1, 0xFFFFFFFFFFFFFFFF⟩]

/-- The same anchors with `XPREC = 2`: a rate that does not fit. -/
def tooSteep : State := fifo ⟨256, 2, 2⟩ [⟨0, 0⟩, ⟨1, 0xFFFFFFFFFFFFFFFF⟩]

/-- `XPREC` is the same in this order of the same anchors. -/
def steepestSwapped : State := fifo twoPlaces [⟨1, 0xFFFFFFFFFFFFFFFF⟩, ⟨0, 0⟩]

theorem oneAnchor_inv : Inv oneAnchor := inv_of _ (by decide) (by decide) (by decide)

theorem fullFifo_inv : Inv fullFifo := inv_of _ (by decide) (by decide) (by decide)

theorem equalFrames_inv : Inv equalFrames := inv_of _ (by decide) (by decide) (by decide)

theorem falling_inv : Inv falling := inv_of _ (by decide) (by decide) (by decide)

theorem steepest_inv : Inv steepest := inv_of _ (by decide) (by decide) (by decide)

theorem tooSteep_inv : Inv tooSteep := inv_of _ (by decide) (by decide) (by decide)

theorem steepestSwapped_inv : Inv steepestSwapped := inv_of _ (by decide) (by decide) (by decide)

/-- The last clause of the statement, at a state with anchors. -/
theorem witness_CsrReadsStatusZero : Inv fullFifo ∧ fullFifo.faulted = false := ⟨fullFifo_inv, by decide⟩

/-- A FIFO with room, and a full one. -/
theorem witness_AnchorAdd :
    (Inv oneAnchor ∧ oneAnchor.ancn < oneAnchor.cfg.aMax) ∧
      Inv fullFifo ∧ fullFifo.ancn = fullFifo.cfg.aMax ∧
      fullFifo.anchors = ⟨1000, 5000000000⟩ :: [⟨1100, 5100000000⟩] :=
  ⟨⟨oneAnchor_inv, by decide⟩, fullFifo_inv, by decide, by decide⟩

theorem witness_ReferenceAnchor :
    State.reset.anchors = [] ∧ oneAnchor.anchors = [] ++ [⟨5, 100⟩] := by decide

theorem fifoRate_falling : fifoRate 1 [⟨10, 100⟩, ⟨20, 90⟩] = -1 := by
  rw [fifoRate, show fifoNum [⟨10, 100⟩, ⟨20, 90⟩] = -100 from by decide, show fifoDen [⟨10, 100⟩, ⟨20, 90⟩] = 100 from by decide]
  norm_num

theorem fifoRate_steepest : fifoRate 1 [⟨0, 0⟩, ⟨1, 0xFFFFFFFFFFFFFFFF⟩] = 2 ^ 64 - 1 := by
  rw [fifoRate, show fifoNum [⟨0, 0⟩, ⟨1, 0xFFFFFFFFFFFFFFFF⟩] = 2 ^ 64 - 1 from by decide, show fifoDen [⟨0, 0⟩, ⟨1, 0xFFFFFFFFFFFFFFFF⟩] = 1 from by decide]
  norm_num

theorem fifoRate_tooSteep : fifoRate 2 [⟨0, 0⟩, ⟨1, 0xFFFFFFFFFFFFFFFF⟩] = 2 ^ 65 - 2 := by
  rw [fifoRate, show fifoNum [⟨0, 0⟩, ⟨1, 0xFFFFFFFFFFFFFFFF⟩] = 2 ^ 64 - 1 from by decide, show fifoDen [⟨0, 0⟩, ⟨1, 0xFFFFFFFFFFFFFFFF⟩] = 1 from by decide]
  norm_num

/-- Too few anchors, equal frame numbers, a rate below 0, a rate above the range, the greatest that fits. -/
theorem witness_RateEstimate :
    (Inv oneAnchor ∧ oneAnchor.ancn < 2) ∧ (Inv equalFrames ∧ fifoDen equalFrames.anchors = 0) ∧
      (Inv falling ∧ 2 ≤ falling.ancn ∧ fifoDen falling.anchors ≠ 0 ∧
        fifoRate falling.cfg.xprec falling.anchors < 0) ∧
      (Inv tooSteep ∧ 2 ≤ tooSteep.ancn ∧ fifoDen tooSteep.anchors ≠ 0 ∧
        2 ^ 64 ≤ fifoRate tooSteep.cfg.xprec tooSteep.anchors) ∧
      Inv steepest ∧ 2 ≤ steepest.ancn ∧ fifoDen steepest.anchors ≠ 0 ∧
        0 ≤ fifoRate steepest.cfg.xprec steepest.anchors ∧
        fifoRate steepest.cfg.xprec steepest.anchors < 2 ^ 64 := by
  refine ⟨⟨oneAnchor_inv, by decide⟩, ⟨equalFrames_inv, by decide⟩,
    ⟨falling_inv, by decide, by decide, ?_⟩, ⟨tooSteep_inv, by decide, by decide, ?_⟩,
    steepest_inv, by decide, by decide, ?_⟩
  · exact lt_of_eq_of_lt fifoRate_falling (by norm_num)
  · exact le_of_le_of_eq (by norm_num) fifoRate_tooSteep.symm
  · rw [show fifoRate steepest.cfg.xprec steepest.anchors = 2 ^ 64 - 1 from fifoRate_steepest]
    norm_num

/-- Beside the five faults and values of the rate: a time that is exactly 0, and one above the range. -/
theorem witness_FrameQuery :
    steepest.anchors = [⟨0, 0⟩] ++ [⟨1, 0xFFFFFFFFFFFFFFFF⟩] ∧
      fifoTime 1 ⟨1, 0xFFFFFFFFFFFFFFFF⟩ (2 ^ 64 - 1) 0 = 0 ∧
      2 ^ 64 ≤ fifoTime 1 ⟨1, 0xFFFFFFFFFFFFFFFF⟩ (2 ^ 64 - 1) 2 ∧
      fifoTime 1 ⟨1001, 1500⟩ 1000 0 < 0 := by
  refine ⟨by decide, ?_, ?_, ?_⟩ <;>
    simp only [fifoTime, show BitVec.toNat (1 : Word64) = 1 from rfl,
      show BitVec.toNat (1001 : Word64) = 1001 from rfl, show BitVec.toNat (1500 : Word64) = 1500 from rfl,
      show BitVec.toNat (0xFFFFFFFFFFFFFFFF : Word64) = 0xFFFFFFFFFFFFFFFF from rfl] <;>
    norm_num

theorem witness_DenominatorVanishes : Inv fullFifo := fullFifo_inv

/-- The line of slope 1 000 000 through `(0, 4 000 000 000)`. -/
theorem witness_CollinearAnchors :
    Inv fullFifo ∧ (∀ a ∈ fullFifo.anchors, (1 : ℤ) * a.time.toNat = 4000000000 + 1000000 * a.frame.toNat) ∧
      (∃ a ∈ fullFifo.anchors, ∃ b ∈ fullFifo.anchors, a.frame ≠ b.frame) ∧
      ⌊((fullFifo.cfg.xprec * 1000000 : ℤ) : ℚ) / (1 : ℤ)⌋ < 2 ^ 64 := by
  refine ⟨fullFifo_inv, by decide, by decide, ?_⟩
  rw [show fullFifo.cfg.xprec = 1 from rfl]
  norm_num

theorem witness_EstimatesIgnoreAnchorOrder :
    Inv steepest ∧ Inv steepestSwapped ∧ steepest.cfg = steepestSwapped.cfg ∧
      steepest.status = steepestSwapped.status ∧ steepest.regs = steepestSwapped.regs ∧
      steepest.anchors.Perm steepestSwapped.anchors ∧
      fullFifo.anchors.getLast? = fullFifo.anchors.getLast? :=
  ⟨steepest_inv, steepestSwapped_inv, by decide, by decide, by decide, by decide, rfl⟩

theorem witness_FrameQueryIsMonotone :
    let s := row1.setReg 7 1150
    s.faulted = false ∧ (s.reg 7).toNat ≤ (1250#64).toNat ∧ (ran (.estf2t 8 7) s).faulted = false ∧
      exec (.estf2t 8 7) s = .next (ran (.estf2t 8 7) s) ∧
      (ran (.estf2t 8 7) (s.setReg 7 1250)).faulted = false ∧
      exec (.estf2t 8 7) (s.setReg 7 1250) = .next (ran (.estf2t 8 7) (s.setReg 7 1250)) :=
  ⟨by decide, by decide, by decide, rfl, by decide, rfl⟩

/-- Three anchors into a FIFO of two places. -/
theorem witness_FifoKeepsTheLastAnchors :
    let l : List Anchor := [⟨1, 10⟩, ⟨2, 20⟩, ⟨3, 30⟩]
    let s := asked (.cmd (encode .anclr) ::
      (l.flatMap fun a => [.regwr 1 a.frame, .regwr 2 a.time, .cmd (encode (.ancadd 1 2))]) ++ [.reset])
      { State.reset with cfg := twoPlaces }
    s.cfg.Valid ∧ s.faulted = false ∧ s.input = .cmd (encode .anclr) ::
      (l.flatMap fun a => [.regwr 1 a.frame, .regwr 2 a.time, .cmd (encode (.ancadd 1 2))]) ++ [.reset] :=
  ⟨by decide, by decide, rfl⟩

theorem witness_HostAccessesRegisters :
    (asked [.regwr 15 0xFFFFFFFFFFFFFFFF] State.reset).input = .regwr 15 0xFFFFFFFFFFFFFFFF :: [] ∧
      (asked [.regrd 0] State.reset).input = .regrd 0 :: [] := ⟨rfl, rfl⟩

/-- The last bytes of `MEM`, and one byte too far, both ways. -/
theorem witness_HostAccessesMemory :
    State.reset.mem.wf ∧ 254 + ([1, 2] : List Byte).length ≤ State.reset.cfg.memSize ∧
      State.reset.cfg.memSize < 255 + ([1, 2] : List Byte).length ∧
      (asked [.memwr 254 [1, 2]] State.reset).input = .memwr 254 [1, 2] :: [] ∧
      (asked [.memrd 255 2] State.reset).input = .memrd 255 2 :: [] := by decide

theorem witness_HostReadsControlRegisters :
    (asked [.csrrd 0x0A0] State.reset).input = .csrrd 0x0A0 :: [] ∧
      ((0x0A0#12).toNat, 1) ∈ csrTable (asked [.csrrd 0x0A0] State.reset) ∧
      csrDefined (0x0A1#12).toNat = false := by decide

theorem witness_ResetRestoresEveryRegister :
    (asked [.reset, .regrd 1] stamped).input = .reset :: [.regrd 1] := rfl

/-- Parameters at the ends of their ranges, and one byte at the end of `MEM`. -/
theorem witness_ResetStateMeetsTheInvariant :
    Config.Valid ⟨2 ^ 32, 2 ^ 64 - 1, 2⟩ ∧ Memory.wf [(2 ^ 32 - 1, 1#8)] ∧
      ∀ c ∈ [((2 ^ 32 - 1 : Nat), 1#8)], c.1 < 2 ^ 32 := by decide

theorem witness_EveryStepKeepsTheInvariant :
    Inv fullFifo ∧ ∃ t, step fullFifo = .next t := ⟨fullFifo_inv, _, rfl⟩

/-- A word that executes, one that raises, one that is discarded. -/
theorem witness_EveryWordHasOneOutcome :
    (asked [.cmd 0x0110FFFF] State.reset).input = .cmd 0x0110FFFF :: [] ∧
      State.reset.faulted = false ∧ ({ State.reset with status := 0x0101 } : State).faulted = true := by
  decide

/-- A command that completes, and one that raises (its register was no source of `NOP`). -/
theorem witness_CommandFrames :
    exec (.csrr 1 0x061) State.reset = .next (ran (.csrr 1 0x061) State.reset) ∧
      State.reset.faulted = false ∧ (ran (.csrr 1 0x061) State.reset).faulted = true ∧
      destination (.csrr 1 0x061) ≠ some 2 ∧ (3 : Reg) ∉ sources (.tstamp 2 1) ∧
      storedRange State.reset (.csrr 1 0x061) = none ∧
      storedRange (withRegs [(1, 16), (3, 1)]) (.clip24le 1 2 3) = some (16, 3) :=
  ⟨rfl, by decide, by decide, by decide, by decide, by decide, by decide⟩

theorem witness_StepRunsTheDecodedCommand :
    (asked [.cmd 0x0110FFFF] State.reset).input = .cmd 0x0110FFFF :: [] ∧
      State.reset.faulted = false ∧ decode 0x0110FFFF = .ok (.li 1 0xFFFF) := by decide

theorem witness_FaultedStateIsLeftOnlyByReset :
    let s := { State.reset with status := 0x0101, fcmd := 1 }
    s.faulted = true ∧ (asked [.reset] s).input = .reset :: [] ∧ Transaction.regrd 1 ≠ .reset := by decide

theorem witness_IllegalWordRaisesIllegalCommand :
    (asked [.cmd 0x20000004] State.reset).input = .cmd 0x20000004 :: [] ∧
      State.reset.faulted = false ∧ ∀ r ∈ opcodeTable, 0x20000004#32 &&& r.mask ≠ r.mtch := by decide

end Sys2Proof.Tests
end

/-! # The state: what a command writes and reads, and what every step keeps

First the decoder held against the opcode table, then `exec` as a rule and a register write
(`exec_next`), then what a rule can leave, raise and read; the statements follow from these. -/

namespace Sys2Proof

/-! ## Command words and the commands they spell -/

/-- The fields of the immediate are the three low fields of the word. -/
theorem immFields_fields (op : BitVec 8) (f : Fields) :
    immFields op f.rd f.imm16 = ⟨op, f.rd, 0, f.rb, f.rc, f.fn⟩ := by
  simp only [immFields, Fields.imm16, Fields.mk.injEq, true_and]
  refine ⟨?_, ?_, ?_⟩ <;>
  · apply BitVec.eq_of_toNat_eq
    simp only [toNat_append_eq, BitVec.extractLsb'_toNat, Nat.shiftRight_eq_div_pow]
    omega

/-- The CSR number falls apart into its two fields. -/
theorem csr_fields (f : Fields) :
    f.csr.extractLsb' 8 4 = f.rc ∧ f.csr.extractLsb' 0 8 = f.fn := by
  constructor <;>
  · apply BitVec.eq_of_toNat_eq
    simp only [Fields.csr, toNat_append_eq, BitVec.extractLsb'_toNat, Nat.shiftRight_eq_div_pow]
    omega

theorem encodeFields_of_decodeClip (f : Fields) (i : Instr) (hop : f.op = 0x20#8)
    (h : decodeClip f = .ok i) : encodeFields i = f := by
  unfold decodeClip at h
  split at h
  case h_8 => simp at h
  all_goals
    obtain ⟨hz, rfl⟩ := (whenZero_ok ..).1 h
    cases f
    simp_all [encodeFields]

theorem encodeFields_of_decodeTof (f : Fields) (i : Instr) (hop : f.op = 0x21#8)
    (h : decodeTof f = .ok i) : encodeFields i = f := by
  unfold decodeTof at h
  split at h
  case h_8 => simp at h
  all_goals
    obtain ⟨hz, rfl⟩ := (whenZero_ok ..).1 h
    cases f
    simp_all [encodeFields]

theorem encodeFields_of_decodeFields (f : Fields) (i : Instr) (h : decodeFields f = .ok i) :
    encodeFields i = f := by
  unfold decodeFields at h
  split at h
  case h_11 hop => exact encodeFields_of_decodeClip f i hop h
  case h_12 hop => exact encodeFields_of_decodeTof f i hop h
  case h_25 => simp at h
  all_goals
    obtain ⟨hz, rfl⟩ := (whenZero_ok ..).1 h
    simp only [encodeFields, immFields_fields, csr_fields]
    cases f
    simp_all

/-- A word the decoder accepts is the word of the command it reads (spec 30_encoding R93). -/
theorem encode_of_decode (w : CmdWord) (i : Instr) (h : decode w = .ok i) : w = encode i := by
  rw [encode, encodeFields_of_decodeFields _ i h, toWord_ofWord]

open Laws in
/-- A word that a row of the opcode table accepts is decoded (spec 30_encoding R93). -/
theorem decodeFields_of_accepts (r : OpcodeRow) (hr : r ∈ opcodeTable) (f : Fields)
    (h : r.accepts f.toWord = true) : ∃ i, decodeFields f = .ok i := by
  have h8 : ∀ x : BitVec 8, x &&& 0xFF#8 = x := fun x => and_ones 8 x _ rfl
  have h4 : ∀ x : BitVec 4, x &&& 0xF#4 = x := fun x => and_ones 4 x _ rfl
  fin_cases hr <;>
  · have hfields := (accepts_fields _ _ _ f).1 h
    simp_all [Fields.ofWord, decodeFields, decodeClip, decodeTof, whenZero]

open Laws.RowMatch in
/-- Every command's word matches a row of the opcode table (spec 30_encoding R93, R102). -/
theorem rowMatch (i : Instr) : Statement i := by
  cases i
  exacts [nop, li _ _, lis _ _, csrr _ _, bswap16 _ _, bswap32 _ _, fb3 _ _, fb4 _ _, fxw _ _, fxf _ _,
    clip8 _ _ _, clip16le _ _ _, clip24le _ _ _, clip32le _ _ _, clip16be _ _ _, clip24be _ _ _,
    clip32be _ _ _, tof8 _ _ _, tof16le _ _ _, tof24le _ _ _, tof32le _ _ _, tof16be _ _ _, tof24be _ _ _,
    tof32be _ _ _, firrst, firpush _ _, firnom _ _, tsinit, tstamp _ _, anclr, ancadd _ _, ancnt _, ancf _,
    anct _, estrate _, estf2t _ _]

theorem legalWord_encode (i : Instr) : legalWord (encode i) = true := by
  obtain ⟨r, hr, -, haccepts⟩ := rowMatch i
  exact List.any_eq_true.2 ⟨r, hr, haccepts⟩

theorem legalWord_of_decode_error (w : CmdWord) (e : DecodeError) (h : decode w = .error e) :
    legalWord w = false := by
  refine Bool.eq_false_of_not_eq_true fun hlegal => ?_
  obtain ⟨r, hr, haccepts⟩ := List.any_eq_true.1 hlegal
  obtain ⟨i, hi⟩ := decodeFields_of_accepts r hr (Fields.ofWord w) (by rwa [toWord_ofWord])
  rw [decode, hi] at h
  cases h

end Sys2Proof

namespace Sys2Proof.Machine

/-! ## The rule of a command, apart from its register write -/

/-- The write of a command's result to the register its encoding names, if it names one. -/
def State.writeBack (s : State) (d : Option Reg) (v : Word64) : State :=
  match d with
  | none => s
  | some rd => s.setReg rd v

theorem writeBack_reg (s : State) (d : Option Reg) (v : Word64) (q : Reg) :
    (s.writeBack d v).reg q = if d = some q then v else s.reg q := by
  cases d with
  | none => simp [State.writeBack]
  | some rd => simp [State.writeBack, setReg_reg, eq_comm]

/-- `TSTAMP` before its register write: the state it leaves, and the filtered timestamp (spec
42_jitter_fir R188). -/
def State.stampRule (s : State) (raw : Word64) : Except Cause (State × Word64) :=
  if s.initArmed then
    if s.nomValid then
      .ok (({ s.prime s.firnom with tsraw := raw, tsfilt := raw }).setInit false, raw)
    else .error .notConfigured
  else if raw.toNat < s.tsraw.toNat then .error .rawRegression
  else
    let t := s.tsfilt.toNat + (s.pushResult (raw - s.tsraw)).toNat
    if 2 ^ 64 ≤ t then .error .resultRange
    else
      .ok ({ s.push (raw - s.tsraw) with tsraw := raw, tsfilt := BitVec.ofNat 64 t }, BitVec.ofNat 64 t)

/-- The rule of a command apart from its register write: the state it leaves and the value that its
destination takes, or the cause it raises. A command with no destination gives 0, which nothing reads.
`exec_eq_complete` ties it to `exec`. -/
def commandRule (s : State) : Instr → Except Cause (State × Word64)
  | .nop => .ok (s, 0)
  | .li _ imm16 => .ok (s, imm16.setWidth 64)
  | .lis rd imm16 => .ok (s, shiftInsert (s.reg rd) imm16)
  | .csrr _ csr =>
    match s.csr csr with
    | some v => .ok (s, v)
    | none => .error .badCsr
  | .bswap16 _ ra => .ok (s, swap16 (s.reg ra))
  | .bswap32 _ ra => .ok (s, swap32 (s.reg ra))
  | .fb3 _ ra => (s.payload ra 3).map fun p => (s, BitVec.ofNat 64 (p * 4))
  | .fb4 _ ra => (s.payload ra 4).map fun p => (s, BitVec.ofNat 64 p)
  | .fxw _ ra => .ok (s, ((s.reg ra).extractLsb' 16 16).setWidth 64)
  | .fxf _ ra => .ok (s, ((s.reg ra).extractLsb' 0 16).setWidth 64 * 1000#64)
  | .clip8 ra rb rc => (forward .w8 .le ra rb rc s).map (·, 0)
  | .clip16le ra rb rc => (forward .w16 .le ra rb rc s).map (·, 0)
  | .clip24le ra rb rc => (forward .w24 .le ra rb rc s).map (·, 0)
  | .clip32le ra rb rc => (forward .w32 .le ra rb rc s).map (·, 0)
  | .clip16be ra rb rc => (forward .w16 .be ra rb rc s).map (·, 0)
  | .clip24be ra rb rc => (forward .w24 .be ra rb rc s).map (·, 0)
  | .clip32be ra rb rc => (forward .w32 .be ra rb rc s).map (·, 0)
  | .tof8 ra rb rc => (inverse .w8 .le ra rb rc s).map (·, 0)
  | .tof16le ra rb rc => (inverse .w16 .le ra rb rc s).map (·, 0)
  | .tof24le ra rb rc => (inverse .w24 .le ra rb rc s).map (·, 0)
  | .tof32le ra rb rc => (inverse .w32 .le ra rb rc s).map (·, 0)
  | .tof16be ra rb rc => (inverse .w16 .be ra rb rc s).map (·, 0)
  | .tof24be ra rb rc => (inverse .w24 .be ra rb rc s).map (·, 0)
  | .tof32be ra rb rc => (inverse .w32 .be ra rb rc s).map (·, 0)
  | .firrst => .ok ({ s with firiter := 0#32 }, 0)
  | .firpush _ ra => .ok (s.push (s.reg ra), s.pushResult (s.reg ra))
  | .firnom ra rb => (s.storeNominal ra rb).map (·, 0)
  | .tsinit => .ok (s.setInit true, 0)
  | .tstamp _ ra => s.stampRule (s.reg ra)
  | .anclr => .ok (s.clearAnchors, 0)
  | .ancadd ra rb => .ok (s.addAnchor ⟨s.reg ra, s.reg rb⟩, 0)
  | .ancnt _ => .ok (s, BitVec.ofNat 64 s.ancn)
  | .ancf _ => s.reference.map fun a => (s, a.frame)
  | .anct _ => s.reference.map fun a => (s, a.time)
  | .estrate _ => s.rate.map fun w => (s, w)
  | .estf2t _ ra => (s.frameToTime (s.reg ra)).map fun t => (s, t)

theorem except_map_map {α β γ : Type} (r : Except Cause α) (f : α → β) (g : β → γ) :
    (r.map f).map g = r.map fun a => g (f a) := by
  cases r <;> rfl

/-- A command with no destination leaves the state of its rule. -/
theorem map_writeBack_none (r : Except Cause State) :
    ((r.map (·, (0 : Word64))).map fun p => p.1.writeBack none p.2) = r := by
  cases r <;> rfl

theorem stamp_eq_map_setReg (s : State) (rd : Reg) (raw : Word64) :
    (if s.initArmed then s.stampPriming rd raw else s.stampFiltering rd raw) =
      (s.stampRule raw).map fun p => p.1.setReg rd p.2 := by
  simp only [State.stampRule, State.stampPriming, State.stampFiltering]
  split_ifs <;> rfl

/-- Every command is its rule, its register write and the end all commands share. -/
theorem exec_eq_complete (i : Instr) (s : State) :
    exec i s = complete (encode i) s
      ((commandRule s i).map fun p => p.1.writeBack (destination i) p.2) := by
  cases i
  case csrr rd csr =>
    simp only [exec, execCsrr, commandRule]
    cases s.csr csr <;> rfl
  case tstamp rd ra =>
    simp only [exec, execTstamp, commandRule, stamp_eq_map_setReg]
    rfl
  case fb3 | fb4 | ancf | anct | estrate | estf2t =>
    simp only [exec, commandRule, except_map_map]
    rfl
  case clip8 | clip16le | clip24le | clip32le | clip16be | clip24be | clip32be =>
    exact congrArg (complete _ s) (map_writeBack_none (forward ..)).symm
  case tof8 | tof16le | tof24le | tof32le | tof16be | tof24be | tof32be =>
    exact congrArg (complete _ s) (map_writeBack_none (inverse ..)).symm
  case firnom ra rb => exact congrArg (complete _ s) (map_writeBack_none (s.storeNominal ra rb)).symm
  all_goals rfl

/-- All that an executed command can do: it completes with what its rule gives, or raises the cause its rule
gives. -/
theorem exec_next (i : Instr) (s t : State) :
    exec i s = .next t ↔
      (∃ u v, commandRule s i = .ok (u, v) ∧ t = u.writeBack (destination i) v) ∨
        ∃ k, commandRule s i = .error k ∧ t = s.enterFault k (encode i) := by
  rw [exec_eq_complete, complete_next]
  simp only [map_setReg_ok, map_setReg_error, Prod.exists]

/-! ## What a rule can do to the state -/

/-- What the rule of a command can leave of the state, before the register write. The three updates that
change `INIT` or `NOMV` name their command (spec 10_state R29). -/
inductive RuleLeaves (s : State) : Instr → State → Prop
  | same (i : Instr) : RuleLeaves s i s
  | stored (i : Instr) (a : Nat) (bs : List Byte) (inside : a + bs.length ≤ s.cfg.memSize) :
    RuleLeaves s i (s.storeBytes a bs)
  | coldStarted (i : Instr) : RuleLeaves s i { s with firiter := 0#32 }
  | pushed (i : Instr) (v : Word64) : RuleLeaves s i (s.push v)
  | nominal (ra rb : Reg) (d : Word64) : RuleLeaves s (.firnom ra rb) { s.setNomv true with firnom := d }
  | armed : RuleLeaves s .tsinit (s.setInit true)
  | primed (rd ra : Reg) (raw : Word64) (configured : s.nomValid = true) :
    RuleLeaves s (.tstamp rd ra) (({ s.prime s.firnom with tsraw := raw, tsfilt := raw }).setInit false)
  | filtered (i : Instr) (v raw filt : Word64) :
    RuleLeaves s i { s.push v with tsraw := raw, tsfilt := filt }
  | cleared (i : Instr) : RuleLeaves s i s.clearAnchors
  | added (i : Instr) (a : Anchor) : RuleLeaves s i (s.addAnchor a)

theorem forward_leaves (i : Instr) (wc : Width) (bo : ByteOrder) (ra rb rc : Reg) (s u : State)
    (h : forward wc bo ra rb rc s = .ok u) : RuleLeaves s i u := by
  obtain ⟨hcheck, bs, hbs, rfl⟩ := (forward_ok ..).1 h
  obtain ⟨-, hdst, -⟩ := (convCheck_none ..).1 hcheck
  have hlen := clipBytes_length wc bo _ _ hbs
  rw [readSamples_length] at hlen
  exact .stored i _ bs (hlen ▸ hdst)

theorem inverse_leaves (i : Instr) (wc : Width) (bo : ByteOrder) (ra rb rc : Reg) (s u : State)
    (h : inverse wc bo ra rb rc s = .ok u) : RuleLeaves s i u := by
  obtain ⟨hcheck, rfl⟩ := (inverse_ok ..).1 h
  obtain ⟨-, hdst, -⟩ := (convCheck_none ..).1 hcheck
  refine .stored i _ _ ?_
  rw [tofBytes_length, readSamples_length]
  exact hdst

theorem stampRule_leaves (rd ra : Reg) (raw v : Word64) (s u : State)
    (h : s.stampRule raw = .ok (u, v)) : RuleLeaves s (.tstamp rd ra) u := by
  simp only [State.stampRule] at h
  split_ifs at h with _ hn
  all_goals cases h
  · exact .primed rd ra _ hn
  · exact .filtered ..

theorem except_map_eq_ok {α β : Type} (r : Except Cause α) (f : α → β) (b : β) :
    r.map f = .ok b ↔ ∃ a, r = .ok a ∧ f a = b := by
  cases r <;> simp [Except.map]

theorem except_map_eq_error {α β : Type} (r : Except Cause α) (f : α → β) (k : Cause) :
    r.map f = .error k ↔ r = .error k := by
  cases r <;> simp [Except.map]

theorem commandRule_leaves (s : State) (i : Instr) (u : State) (v : Word64)
    (h : commandRule s i = .ok (u, v)) : RuleLeaves s i u := by
  cases i
  case clip8 | clip16le | clip24le | clip32le | clip16be | clip24be | clip32be =>
    obtain ⟨u, hf, ⟨⟩⟩ := (except_map_eq_ok ..).1 h
    exact forward_leaves _ _ _ _ _ _ _ _ hf
  case tof8 | tof16le | tof24le | tof32le | tof16be | tof24be | tof32be =>
    obtain ⟨u, hf, ⟨⟩⟩ := (except_map_eq_ok ..).1 h
    exact inverse_leaves _ _ _ _ _ _ _ _ hf
  case fb3 | fb4 | ancf | anct | estrate | estf2t =>
    obtain ⟨_, -, ⟨⟩⟩ := (except_map_eq_ok ..).1 h
    exact .same _
  case csrr rd csr =>
    simp only [commandRule] at h
    split at h <;> cases h
    exact .same _
  case firnom ra rb =>
    obtain ⟨u, hn, ⟨⟩⟩ := (except_map_eq_ok ..).1 h
    obtain ⟨-, -, rfl⟩ := (storeNominal_ok ..).1 hn
    exact .nominal ..
  case tstamp rd ra => exact stampRule_leaves rd ra _ v s u h
  case firrst => cases h; exact .coldStarted _
  case firpush => cases h; exact .pushed ..
  case tsinit => cases h; exact .armed
  case anclr => cases h; exact .cleared _
  case ancadd => cases h; exact .added ..
  all_goals cases h; exact .same _

/-- What every rule keeps (spec 10_state R22, 60_exceptions R262). -/
theorem RuleLeaves.keeps {s u : State} {i : Instr} (h : RuleLeaves s i u) :
    (∀ q, u.reg q = s.reg q) ∧ SameFault s u ∧ SameHost s u := by
  cases h <;> exact ⟨fun _ => by simp [State.reg], ⟨by simp, by simp⟩, ⟨by simp, by simp, by simp⟩⟩

/-! ## What a rule can raise -/

theorem forward_error (wc : Width) (bo : ByteOrder) (ra rb rc : Reg) (s : State) (k : Cause)
    (h : forward wc bo ra rb rc s = .error k) : causeCode k ∈ [2#8, 3#8, 4#8] := by
  simp only [forward] at h
  split at h
  · next hc =>
    cases h
    rcases (convCheck_some ..).1 hc with ⟨rfl, -⟩ | ⟨rfl, -⟩ <;> decide
  · split at h <;> cases h
    decide

theorem inverse_error (wc : Width) (bo : ByteOrder) (ra rb rc : Reg) (s : State) (k : Cause)
    (h : inverse wc bo ra rb rc s = .error k) : causeCode k ∈ [2#8, 3#8] := by
  simp only [inverse] at h
  split at h <;> cases h
  next hc => rcases (convCheck_some ..).1 hc with ⟨rfl, -⟩ | ⟨rfl, -⟩ <;> decide

theorem storeNominal_error (s : State) (ra rb : Reg) (k : Cause)
    (h : s.storeNominal ra rb = .error k) : causeCode k ∈ [5#8, 6#8] := by
  simp only [State.storeNominal] at h
  split_ifs at h <;> cases h <;> decide

theorem stampRule_error (s : State) (raw : Word64) (k : Cause)
    (h : s.stampRule raw = .error k) : causeCode k ∈ [8#8, 7#8, 6#8] := by
  simp only [State.stampRule] at h
  split_ifs at h <;> cases h <;> decide

theorem reference_error (s : State) (k : Cause) (h : s.reference = .error k) : causeCode k ∈ [9#8] := by
  unfold State.reference at h
  split at h <;> cases h
  decide

theorem rate_error_code (s : State) (k : Cause) (h : s.rate = .error k) :
    causeCode k ∈ [9#8, 6#8] := by
  rcases (rate_error ..).1 h with ⟨rfl, -⟩ | ⟨-, -, hf⟩
  · decide
  · obtain ⟨rfl, -⟩ := (fit64_error ..).1 hf
    decide

theorem frameToTime_error (s : State) (f : Word64) (k : Cause) (h : s.frameToTime f = .error k) :
    causeCode k ∈ [9#8, 6#8] := by
  unfold State.frameToTime at h
  split at h
  · next hr => cases h; exact rate_error_code s k hr
  · split at h
    · cases h; decide
    · obtain ⟨rfl, -⟩ := (fit64_error ..).1 h
      decide

/-- A rule raises only the causes of its row in the table of spec 60_exceptions R274. -/
theorem commandRule_error (s : State) (i : Instr) (k : Cause) (h : commandRule s i = .error k) :
    causeCode k ∈ raisableCodes i := by
  cases i
  case clip8 | clip16le | clip24le | clip32le | clip16be | clip24be | clip32be =>
    exact forward_error _ _ _ _ _ _ _ ((except_map_eq_error ..).1 h)
  case tof8 | tof16le | tof24le | tof32le | tof16be | tof24be | tof32be =>
    exact inverse_error _ _ _ _ _ _ _ ((except_map_eq_error ..).1 h)
  case fb3 | fb4 =>
    obtain ⟨rfl, -⟩ := (payload_error ..).1 ((except_map_eq_error ..).1 h)
    simp [raisableCodes, causeCode]
  case ancf | anct => exact reference_error _ _ ((except_map_eq_error ..).1 h)
  case estrate => exact rate_error_code _ _ ((except_map_eq_error ..).1 h)
  case estf2t => exact frameToTime_error _ _ _ ((except_map_eq_error ..).1 h)
  case firnom => exact storeNominal_error _ _ _ _ ((except_map_eq_error ..).1 h)
  case tstamp => exact stampRule_error _ _ _ h
  case csrr rd csr =>
    simp only [commandRule] at h
    split at h <;> cases h
    simp [raisableCodes, causeCode]
  all_goals cases h

/-- No command that has decoded raises `IllegalCommand` (spec 60_exceptions R274). -/
theorem one_notMem_raisableCodes (i : Instr) : 1#8 ∉ raisableCodes i := by
  cases i <;> simp [raisableCodes]

/-! ## What a rule reads of the registers -/

section

variable (s : State) (r : Reg) (v : Word64)

theorem csr_setReg (c : CsrNum) : (s.setReg r v).csr c = s.csr c := rfl

theorem push_setReg (x : Word64) : (s.setReg r v).push x = (s.push x).setReg r v := by
  by_cases h : s.firiter = 0#32
  · simp only [State.push, setReg_firiter, h, if_true]
    rfl
  · simp only [State.push, setReg_firiter, h, if_false]
    rfl

theorem evictOldest_setReg : (s.setReg r v).evictOldest = s.evictOldest.setReg r v := by
  simp only [State.evictOldest, setReg_anchors]
  cases s.anchors <;> rfl

theorem addAnchor_setReg (a : Anchor) : (s.setReg r v).addAnchor a = (s.addAnchor a).setReg r v := by
  have evict : (if s.ancn = s.cfg.aMax then (s.setReg r v).evictOldest else s.setReg r v) =
      (if s.ancn = s.cfg.aMax then s.evictOldest else s).setReg r v := by
    rw [evictOldest_setReg, apply_ite (State.setReg · r v)]
  exact congrArg (State.appendAnchor · a) evict

theorem convOperands_setReg (ra rb rc : Reg) (h : r ∉ [ra, rb, rc]) :
    (s.setReg r v).convOperands ra rb rc = s.convOperands ra rb rc := by
  simp only [List.mem_cons, List.not_mem_nil, or_false, not_or] at h
  obtain ⟨ha, hb, hc⟩ := h
  simp only [State.convOperands, setReg_reg, Ne.symm ha, Ne.symm hb, Ne.symm hc, if_false]

theorem convCheck_setReg (o : ConvOperands) (m n : Nat) :
    (s.setReg r v).convCheck o m n = s.convCheck o m n := rfl

theorem forward_setReg (wc : Width) (bo : ByteOrder) (ra rb rc : Reg) (h : r ∉ [ra, rb, rc]) :
    forward wc bo ra rb rc (s.setReg r v) = (forward wc bo ra rb rc s).map (·.setReg r v) := by
  simp only [forward, convOperands_setReg s r v ra rb rc h, convCheck_setReg, setReg_mem]
  cases s.convCheck (s.convOperands ra rb rc) 4 (widthBytes wc) with
  | some k => rfl
  | none => dsimp only; cases clipBytes wc bo _ <;> rfl

theorem inverse_setReg (wc : Width) (bo : ByteOrder) (ra rb rc : Reg) (h : r ∉ [ra, rb, rc]) :
    inverse wc bo ra rb rc (s.setReg r v) = (inverse wc bo ra rb rc s).map (·.setReg r v) := by
  simp only [inverse, convOperands_setReg s r v ra rb rc h, convCheck_setReg, setReg_mem]
  cases s.convCheck (s.convOperands ra rb rc) (widthBytes wc) 4 <;> rfl

theorem storeNominal_setReg (ra rb : Reg) (h : r ∉ [ra, rb]) :
    (s.setReg r v).storeNominal ra rb = (s.storeNominal ra rb).map (·.setReg r v) := by
  simp only [List.mem_cons, List.not_mem_nil, or_false, not_or] at h
  obtain ⟨ha, hb⟩ := h
  simp only [State.storeNominal, setReg_reg, Ne.symm ha, Ne.symm hb, if_false]
  split_ifs <;> rfl

theorem stampRule_setReg (raw : Word64) :
    (s.setReg r v).stampRule raw = (s.stampRule raw).map fun p => (p.1.setReg r v, p.2) := by
  simp only [State.stampRule, push_setReg]
  change (if s.initArmed then if s.nomValid then _ else _
    else if raw.toNat < s.tsraw.toNat then _
    else if 2 ^ 64 ≤ s.tsfilt.toNat + (s.pushResult (raw - s.tsraw)).toNat then _ else _) = _
  split_ifs <;> rfl

/-- A rule reads only the registers named as its sources: another register is passed on as it is. -/
theorem commandRule_setReg (i : Instr) (h : r ∉ sources i) :
    commandRule (s.setReg r v) i = (commandRule s i).map fun p => (p.1.setReg r v, p.2) := by
  have source : ∀ q ∈ sources i, (s.setReg r v).reg q = s.reg q := fun q hq =>
    setReg_reg_other s r q v fun e => h (e ▸ hq)
  cases i
  case clip8 | clip16le | clip24le | clip32le | clip16be | clip24be | clip32be =>
    simp only [commandRule, forward_setReg s r v _ _ _ _ _ h, except_map_map]
  case tof8 | tof16le | tof24le | tof32le | tof16be | tof24be | tof32be =>
    simp only [commandRule, inverse_setReg s r v _ _ _ _ _ h, except_map_map]
  case firnom ra rb => simp only [commandRule, storeNominal_setReg s r v _ _ h, except_map_map]
  case csrr rd csr =>
    simp only [commandRule, csr_setReg]
    cases s.csr csr <;> rfl
  case ancf | anct | estrate =>
    simp only [commandRule, except_map_map]
    rfl
  case fb3 rd ra | fb4 rd ra | estf2t rd ra =>
    simp only [commandRule, except_map_map, State.payload, source ra (List.mem_cons_self ..)]
    rfl
  case tstamp rd ra =>
    simp only [commandRule, source ra (List.mem_cons_self ..), stampRule_setReg]
  case firpush rd ra =>
    simp only [commandRule, source ra (List.mem_cons_self ..), push_setReg]
    rfl
  case ancadd ra rb =>
    simp only [commandRule, source ra (by simp [sources]), source rb (by simp [sources]), addAnchor_setReg]
    rfl
  case lis q _ | bswap16 _ q | bswap32 _ q | fxw _ q | fxf _ q =>
    simp only [commandRule, source q (List.mem_cons_self ..)]
    rfl
  all_goals rfl

end

/-! ## Registers: what a command writes and reads (spec 10_state R22) -/

/-- A rule that completes leaves every register, `STATUS`, `FCMD` and the host's lists to the write-back. -/
theorem commandRule_keeps {s u : State} {i : Instr} {v : Word64} (h : commandRule s i = .ok (u, v)) :
    (∀ q, u.reg q = s.reg q) ∧ SameFault s u ∧ SameHost s u :=
  (commandRule_leaves s i u v h).keeps

theorem writeBack_faulted (s : State) (d : Option Reg) (v : Word64) :
    (s.writeBack d v).faulted = s.faulted := by
  cases d <;> rfl

theorem writeBack_sameHost (s : State) (d : Option Reg) (v : Word64) : SameHost s (s.writeBack d v) := by
  cases d <;> exact ⟨rfl, rfl, rfl⟩

/-- Settles O53: the two ends of a command, `exec_next`, with what its rule keeps. -/
theorem commandWritesOnlyItsDestination : Obligations.CommandWritesOnlyItsDestination := by
  intro i s t h
  rcases (exec_next ..).1 h with ⟨u, v, hrule, rfl⟩ | ⟨k, -, rfl⟩
  case inr => exact ⟨fun r _ => rfl, fun _ _ r => rfl, rfl, rfl, rfl⟩
  obtain ⟨hreg, ⟨hstatus, -⟩, ⟨hcfg, hin, hout⟩⟩ := commandRule_keeps hrule
  obtain ⟨wcfg, win, wout⟩ := writeBack_sameHost u (destination i) v
  refine ⟨fun r hr => ?_, fun hs ht => ?_, wcfg.trans hcfg, win.trans hin, wout.trans hout⟩
  · rw [writeBack_reg, if_neg hr, hreg]
  · rw [writeBack_faulted, State.faulted, hstatus] at ht
    exact absurd (hs.symm.trans ht) (by decide)

/-- The runs from two states that differ in the register `r` alone leave states that differ in `r` alone. -/
theorem writeBack_setReg_frame (u : State) (r : Reg) (x v : Word64) (d : Option Reg) :
    let t := u.writeBack d x
    let t' := (u.setReg r v).writeBack d x
    SameFault t t' ∧ SameFilter t t' ∧ SameAnchors t t' ∧ t'.mem = t.mem ∧ SameHost t t' := by
  cases d <;>
  exact ⟨⟨rfl, rfl⟩, ⟨rfl, rfl, rfl, rfl, rfl, rfl, rfl⟩, ⟨rfl, rfl, rfl, rfl, rfl, rfl⟩, rfl,
    ⟨rfl, rfl, rfl⟩⟩

/-- Settles O54: the rule passes a register that is no source on as it is (`commandRule_setReg`), and the
write-back either overwrites it in both runs or in neither. -/
theorem commandReadsOnlyItsSources : Obligations.CommandReadsOnlyItsSources := by
  intro i s t r v hr h
  have hrule' := commandRule_setReg s r v i hr
  rcases (exec_next ..).1 h with ⟨u, x, hrule, rfl⟩ | ⟨k, hrule, rfl⟩
  · have hreg : u.reg r = s.reg r := (commandRule_keeps hrule).1 r
    rw [hrule] at hrule'
    refine ⟨(u.setReg r v).writeBack (destination i) x, (exec_next ..).2 (.inl ⟨_, x, hrule', rfl⟩),
      fun q hq => ?_, fun hd => ?_, ?_, writeBack_setReg_frame u r x v (destination i)⟩
    · rw [writeBack_reg, writeBack_reg, setReg_reg_other u r q v hq]
    · rw [writeBack_reg, if_neg hd, setReg_reg_same]
    · simp only [writeBack_reg, setReg_reg_same]
      by_cases hd : destination i = some r
      · exact .inl (by rw [if_pos hd, if_pos hd])
      · exact .inr ⟨by rw [if_neg hd, hreg], if_neg hd⟩
  · rw [hrule] at hrule'
    refine ⟨(s.setReg r v).enterFault k (encode i), (exec_next ..).2 (.inr ⟨k, hrule', rfl⟩),
      fun q hq => setReg_reg_other s r q v hq, fun _ => setReg_reg_same s r v,
      .inr ⟨rfl, setReg_reg_same s r v⟩, writeBack_setReg_frame (s.enterFault k (encode i)) r 0 v none⟩

/-! ## The configuration bits (spec 10_state R29) -/

/-- What a command does to `FIRCTL`: each change of a bit names its command. -/
inductive FirctlChange (c : BitVec 2) : Instr → BitVec 2 → Prop
  | kept (i : Instr) : FirctlChange c i c
  | armed : FirctlChange c .tsinit (firctlWord (c.getLsbD 1) true)
  | primed (rd ra : Reg) (configured : c.getLsbD 1 = true) :
    FirctlChange c (.tstamp rd ra) (firctlWord (c.getLsbD 1) false)
  | nominal (ra rb : Reg) : FirctlChange c (.firnom ra rb) (firctlWord true (c.getLsbD 0))

theorem RuleLeaves.firctlChange {s u : State} {i : Instr} (h : RuleLeaves s i u) :
    FirctlChange s.firctl i u.firctl := by
  cases h with
  | armed => exact .armed
  | primed rd ra raw configured => exact .primed rd ra configured
  | nominal ra rb d => exact .nominal ra rb
  | pushed i v => exact push_firctl s v ▸ .kept i
  | filtered i v raw filt => exact push_firctl s v ▸ .kept i
  | added i a => exact addAnchor_firctl s a ▸ .kept i
  | _ => exact .kept _

theorem exec_firctlChange {s t : State} {i : Instr} (h : exec i s = .next t) :
    FirctlChange s.firctl i t.firctl := by
  rcases (exec_next ..).1 h with ⟨u, v, hrule, rfl⟩ | ⟨k, -, rfl⟩
  · have hu := (commandRule_leaves s i u v hrule).firctlChange
    cases destination i <;> exact hu
  · exact .kept i

theorem hostWrite_firctl (s : State) (a : Nat) (bs : List Byte) : (s.hostWrite a bs).firctl = s.firctl := by
  unfold State.hostWrite
  split <;> rfl

/-- What a step does to `FIRCTL`: nothing, or what `RESET` or an executed command does. -/
theorem step_firctlChange {s t : State} (h : step s = .next t) :
    t.firctl = s.firctl ∨
      (∃ rest, s.input = .reset :: rest ∧ t.firctl = 1#2) ∨
      ∃ i rest, s.faulted = false ∧ s.input = .cmd (encode i) :: rest ∧
        FirctlChange s.firctl i t.firctl := by
  cases hin : s.input with
  | nil =>
    rw [step_nil s hin] at h
    cases h
    exact .inl rfl
  | cons x rest =>
    rw [step_cons s x rest hin] at h
    cases x with
    | reset => cases h; exact .inr (.inl ⟨rest, rfl, rfl⟩)
    | cmd w =>
      rcases runCommand_cases w { s with input := rest } with
        ⟨-, hrun⟩ | ⟨-, -, hrun⟩ | ⟨hf, i, hdec, hrun⟩ <;>
        rw [transact, hrun] at h
      · cases h; exact .inl rfl
      · cases h; exact .inl rfl
      · rw [encode_of_decode w i hdec]
        exact .inr (.inr ⟨i, rest, hf, rfl, exec_firctlChange (s := { s with input := rest }) h⟩)
    | memwr a bs => cases h; exact .inl (hostWrite_firctl ..)
    | _ => cases h; exact .inl rfl

/-- Settles O32: of the ways a step can change `FIRCTL`, the bits before and after leave only those the
statement names. -/
theorem configurationBitsChangeOnlyByTheirCommands :
    Obligations.ConfigurationBitsChangeOnlyByTheirCommands := by
  intro s t h
  have hstep := step_firctlChange h
  simp only [State.initArmed, State.nomValid]
  generalize s.firctl = c, t.firctl = c' at hstep ⊢
  rcases hstep with rfl | ⟨rest, hin, rfl⟩ | ⟨i, rest, hf, hin, hchange⟩
  · simp_all
  · exact ⟨fun _ _ => ⟨rest, .inl hin⟩, by simp, by simp, fun _ _ => ⟨rest, hin⟩⟩
  cases hchange with
  | kept => simp_all
  | armed =>
    simp only [firctlWord_init, firctlWord_nomv]
    exact ⟨fun _ _ => ⟨rest, .inr ⟨hf, hin⟩⟩, by simp, by simp_all, by simp_all⟩
  | primed rd ra configured =>
    simp only [firctlWord_init, firctlWord_nomv]
    exact ⟨by simp, fun _ _ => ⟨rd, ra, rest, hf, configured, hin⟩, by simp_all, by simp_all⟩
  | nominal ra rb =>
    simp only [firctlWord_init, firctlWord_nomv]
    exact ⟨by simp_all, by simp_all, fun _ _ => ⟨ra, rb, rest, hf, hin⟩, by simp⟩

/-! ## The reset state (spec 10_state R46) -/

@[simp] theorem resetWith_reg (cfg : Config) (mem : Memory) (r : Reg) :
    (State.resetWith cfg mem).reg r = 0#64 := by
  simp [State.reg, State.resetWith]

@[simp] theorem resetWith_faulted (cfg : Config) (mem : Memory) :
    (State.resetWith cfg mem).faulted = false := by
  simp [State.faulted, State.resetWith]

@[simp] theorem resetWith_initArmed (cfg : Config) (mem : Memory) :
    (State.resetWith cfg mem).initArmed = true := by
  simp [State.initArmed, State.resetWith]

@[simp] theorem resetWith_nomValid (cfg : Config) (mem : Memory) :
    (State.resetWith cfg mem).nomValid = false := by
  simp [State.nomValid, State.resetWith]

/-- The numbers `0x080 + k` read the coefficients (spec 10_state R36). -/
theorem csr_coefficient (s : State) (k : Fin 33) :
    s.csr (BitVec.ofNat 12 (0x080 + k.val)) = some (firCoef[k].setWidth 64) := by
  have hn : (BitVec.ofNat 12 (0x080 + k.val)).toNat = 0x080 + k.val := by
    rw [BitVec.toNat_ofNat]; omega
  have hdata : ¬(0x040 ≤ 0x080 + k.val ∧ 0x080 + k.val ≤ 0x060) := by omega
  have hcoef : 0x080 ≤ 0x080 + k.val ∧ 0x080 + k.val ≤ 0x0A0 := by omega
  simp only [State.csr, hn, dif_neg hdata, dif_pos hcoef, Nat.add_sub_cancel_left]
  rfl

/-- The model's coefficients are those the spec prints (spec 10_state R36). -/
theorem firCoef_eq_coefficientList :
    ∀ k : Fin 33, firCoef[k].setWidth 64 = BitVec.ofNat 64 (coefficientList.getD k.val 0) := by
  decide

/-- Settles O49: the fields by definition, the constants and coefficients through the CSR map. -/
theorem resetStateHoldsTheTable : Obligations.ResetStateHoldsTheTable := by
  intro cfg mem s
  refine ⟨resetWith_reg cfg mem, rfl, rfl, resetWith_initArmed .., resetWith_nomValid .., rfl, rfl, rfl, rfl,
    rfl, fun k => ?_, rfl, rfl, rfl, rfl, rfl, rfl, fun k => rfl, rfl, rfl, rfl, rfl, rfl, rfl, fun k => ?_⟩
  · simp [s, State.resetWith]
  · rw [csr_coefficient, firCoef_eq_coefficientList]

theorem inv_resetWith (cfg : Config) (mem : Memory) (hcfg : cfg.Valid) (hwf : mem.wf)
    (hin : ∀ c ∈ mem, c.1 < cfg.memSize) : Inv (State.resetWith cfg mem) := by
  have hmax : 0 < cfg.aMax := by omega
  exact
    { cfg_valid := hcfg, mem_wf := hwf, mem_inside := hin
      status_reserved := (by decide : BitVec.extractLsb' 1 7 0#16 = 0#7)
      no_fault := fun _ => ⟨rfl, rfl⟩
      fault_cause := by simp, fault_illegal := by simp
      nomv_clear := fun _ => ⟨rfl, resetWith_initArmed ..⟩
      firwp_lt := (by decide : (0#6).toNat < 33), ancn_le := Nat.zero_le _
      anchead_lt := hmax, anchead_zero := fun _ => rfl
      sx_sum := rfl, sy_sum := rfl, sxx_sum := rfl, sxy_sum := rfl }

/-- Settles O50: for any parameters in range, hence for those of `State.reset`. -/
theorem resetStateMeetsTheInvariant : Obligations.ResetStateMeetsTheInvariant :=
  ⟨inv_resetWith, inv_resetWith _ _ (by decide) (by decide) (by decide)⟩

/-! ## The sums over the anchor FIFO (spec 10_state R39, R40, R42) -/

theorem anchorSum_cons (f : Anchor → Nat) (a : Anchor) (l : List Anchor) :
    anchorSum f (a :: l) = f a + anchorSum f l := by
  simp [anchorSum]

theorem anchorSum_append_singleton (f : Anchor → Nat) (l : List Anchor) (a : Anchor) :
    anchorSum f (l ++ [a]) = anchorSum f l + f a := by
  simp [anchorSum]

theorem anchorSum_le (f : Anchor → Nat) (b : Nat) (hf : ∀ a, f a ≤ b) (l : List Anchor) :
    anchorSum f l ≤ l.length * b := by
  induction l with
  | nil => simp [anchorSum]
  | cons a l ih =>
    rw [anchorSum_cons, List.length_cons, Nat.succ_mul]
    have := hf a
    omega

theorem toNat_setWidth_word (x : Word64) (w : Nat) (hw : 64 ≤ w) : (x.setWidth w).toNat = x.toNat := by
  rw [BitVec.toNat_setWidth, Nat.mod_eq_of_lt (x.isLt.trans_le (Nat.pow_le_pow_right (by decide) hw))]

theorem word_mul_le (x y : Word64) : x.toNat * y.toNat ≤ (2 ^ 64 - 1) * (2 ^ 64 - 1) :=
  Nat.mul_le_mul (Nat.le_sub_one_of_lt x.isLt) (Nat.le_sub_one_of_lt y.isLt)

theorem wideMul_toNat (x y : Word64) : (wideMul x y).toNat = x.toNat * y.toNat := by
  have := word_mul_le x y
  rw [wideMul, BitVec.toNat_mul, toNat_setWidth_word x 140 (by decide), toNat_setWidth_word y 140 (by decide),
    Nat.mod_eq_of_lt (by omega)]

/-- A sum register after an anchor is added: no wrap, since `4096` terms fit. -/
theorem sum_toNat_append {w : Nat} (x d : BitVec w) (f : Anchor → Nat) (b : Nat) (l : List Anchor)
    (a : Anchor) (hx : x.toNat = anchorSum f l) (hd : d.toNat = f a) (hf : ∀ a, f a ≤ b)
    (hl : l.length < 4096) (hb : 4096 * b < 2 ^ w) : (x + d).toNat = anchorSum f (l ++ [a]) := by
  have hle := anchorSum_le f b hf (l ++ [a])
  have hlen : (l ++ [a]).length * b ≤ 4096 * b := Nat.mul_le_mul_right b (by simpa using hl)
  have hsum := anchorSum_append_singleton f l a
  rw [BitVec.toNat_add, hx, hd, Nat.mod_eq_of_lt (by omega), hsum]

/-- A sum register after the oldest anchor is evicted. -/
theorem sum_toNat_evict {w : Nat} (x d : BitVec w) (f : Anchor → Nat) (l : List Anchor) (o : Anchor)
    (hx : x.toNat = anchorSum f (o :: l)) (hd : d.toNat = f o) : (x - d).toNat = anchorSum f l := by
  rw [anchorSum_cons] at hx
  rw [BitVec.toNat_sub_of_le (by rw [BitVec.le_def]; omega)]
  omega

/-- The four sum registers hold the sums over the FIFO (spec 10_state R42). -/
structure SumsMatch (s : State) : Prop where
  sx : s.sx.toNat = anchorSum (fun a => a.frame.toNat) s.anchors
  sy : s.sy.toNat = anchorSum (fun a => a.time.toNat) s.anchors
  sxx : s.sxx.toNat = anchorSum (fun a => a.frame.toNat * a.frame.toNat) s.anchors
  sxy : s.sxy.toNat = anchorSum (fun a => a.frame.toNat * a.time.toNat) s.anchors

theorem SumsMatch.evictOldest {s : State} (h : SumsMatch s) : SumsMatch s.evictOldest := by
  unfold State.evictOldest
  split
  · exact h
  next o rest hs =>
  obtain ⟨hx, hy, hxx, hxy⟩ := h
  rw [hs] at hx hy hxx hxy
  exact ⟨sum_toNat_evict _ _ _ _ o hx (toNat_setWidth_word _ 76 (by decide)),
    sum_toNat_evict _ _ _ _ o hy (toNat_setWidth_word _ 76 (by decide)),
    sum_toNat_evict _ _ _ _ o hxx (wideMul_toNat ..), sum_toNat_evict _ _ _ _ o hxy (wideMul_toNat ..)⟩

theorem SumsMatch.appendAnchor {s : State} (h : SumsMatch s) (a : Anchor) (hroom : s.ancn < 4096) :
    SumsMatch (s.appendAnchor a) := by
  obtain ⟨hx, hy, hxx, hxy⟩ := h
  have word : ∀ x : Word64, x.toNat ≤ 2 ^ 64 - 1 := fun x => Nat.le_sub_one_of_lt x.isLt
  have narrow : ∀ x : Word64, (x.setWidth 76).toNat = x.toNat := fun x => toNat_setWidth_word x 76 (by decide)
  exact ⟨sum_toNat_append _ _ _ _ _ a hx (narrow _) (fun _ => word _) hroom (by decide),
    sum_toNat_append _ _ _ _ _ a hy (narrow _) (fun _ => word _) hroom (by decide),
    sum_toNat_append _ _ _ _ _ a hxx (wideMul_toNat ..) (fun _ => word_mul_le ..) hroom (by decide),
    sum_toNat_append _ _ _ _ _ a hxy (wideMul_toNat ..) (fun _ => word_mul_le ..) hroom (by decide)⟩

theorem Inv.sumsMatch {s : State} (h : Inv s) : SumsMatch s := ⟨h.sx_sum, h.sy_sum, h.sxx_sum, h.sxy_sum⟩

theorem evictOldest_ancn (s : State) : s.evictOldest.ancn = s.ancn - 1 := by
  unfold State.evictOldest
  split <;> simp_all [State.ancn]

theorem appendAnchor_ancn (s : State) (a : Anchor) : (s.appendAnchor a).ancn = s.ancn + 1 := by
  simp [State.ancn]

theorem evictOldest_anchead_lt (s : State) (hmax : s.cfg.aMax ≤ 4096) (h : s.anchead.toNat < s.cfg.aMax) :
    s.evictOldest.anchead.toNat < s.cfg.aMax := by
  unfold State.evictOldest
  split
  · exact h
  · have hlt : (s.anchead.toNat + 1) % s.cfg.aMax < s.cfg.aMax := Nat.mod_lt _ (by omega)
    rw [BitVec.toNat_ofNat, Nat.mod_eq_of_lt (by omega)]
    exact hlt

/-! ## The invariant, one lemma per update -/

section

variable {s : State}

/-- The invariant says nothing of these fields. -/
theorem Inv.data (h : Inv s) (regs : Vector Word64 16) (firiter : BitVec 32) (tsraw tsfilt : Word64)
    (firdata : Vector Word64 33) (input : List Transaction) (output : List Reply) :
    Inv { s with
      regs := regs, firiter := firiter, tsraw := tsraw, tsfilt := tsfilt, firdata := firdata
      input := input, output := output } :=
  { h with }

theorem Inv.setReg (h : Inv s) (r : Reg) (v : Word64) : Inv (s.setReg r v) := h.data ..

theorem Inv.writeBack (h : Inv s) (d : Option Reg) (v : Word64) : Inv (s.writeBack d v) := by
  cases d with
  | none => exact h
  | some rd => exact h.setReg rd v

theorem Inv.storeBytes (h : Inv s) (a : Nat) (bs : List Byte) (inside : a + bs.length ≤ s.cfg.memSize) :
    Inv (s.storeBytes a bs) :=
  { h with
    mem_wf := storeBytes_wf s a bs h.mem_wf
    mem_inside := fun c hc => by
      rcases mem_writeBytes s.mem a bs c hc with ⟨-, hlt⟩ | hold
      · exact hlt.trans_le inside
      · exact h.mem_inside c hold }

theorem statusWord_reserved (k : Cause) : (statusWord (causeCode k) true).extractLsb' 1 7 = 0#7 := by
  cases k <;> decide

theorem causeCode_range (k : Cause) : 1 ≤ (causeCode k).toNat ∧ (causeCode k).toNat ≤ 10 := by
  cases k <;> decide

theorem Inv.enterFault (h : Inv s) (k : Cause) (w : CmdWord)
    (hw : causeCode k = 1#8 ↔ legalWord w = false) : Inv (s.enterFault k w) :=
  { h with
    status_reserved := statusWord_reserved k
    no_fault := fun hf => by simp at hf
    fault_cause := fun _ => by rw [enterFault_cause]; exact causeCode_range k
    fault_illegal := fun _ => by rw [enterFault_cause, enterFault_fcmd]; exact hw }

theorem Inv.armInit (h : Inv s) : Inv (s.setInit true) :=
  { h with
    nomv_clear := fun hn => ⟨(h.nomv_clear (by simpa using hn)).1, setInit_initArmed s true⟩ }

theorem Inv.setFirwp (h : Inv s) (p : BitVec 6) (hp : p.toNat < 33) : Inv { s with firwp := p } :=
  { h with firwp_lt := hp }

theorem Inv.prime (h : Inv s) (v : Word64) : Inv (s.prime v) :=
  (h.setFirwp 0#6 (by decide)).data ..

theorem Inv.push (h : Inv s) (v : Word64) : Inv (s.push v) := by
  unfold State.push
  split
  · exact h.prime v
  · have hp : (BitVec.ofNat 6 ((s.firwp.toNat + 1) % 33)).toNat < 33 := by
      rw [BitVec.toNat_ofNat]
      omega
    exact (h.setFirwp _ hp).data ..

/-- A timestamp that primes clears `INIT`, which needs a nominal delta (spec 42_jitter_fir R188). -/
theorem Inv.clearInit (h : Inv s) (configured : s.nomValid = true) : Inv (s.setInit false) :=
  { h with
    nomv_clear := fun hn => by simp [configured] at hn }

theorem Inv.storeNominal (h : Inv s) (d : Word64) : Inv { s.setNomv true with firnom := d } :=
  { h with
    nomv_clear := fun hn => absurd ((setNomv_nomValid s true).symm.trans hn) (by decide) }

/-- The invariant for another content of the FIFO: `anchead` may leave 0 only if the FIFO is full. -/
theorem Inv.withFifo (h : Inv s) (t : State)
    (ht : t = { s with
      anchors := t.anchors, anchead := t.anchead, sx := t.sx, sy := t.sy, sxx := t.sxx, sxy := t.sxy })
    (hsums : SumsMatch t) (hle : t.ancn ≤ s.cfg.aMax) (hlt : t.anchead.toNat < s.cfg.aMax)
    (hzero : t.ancn < s.cfg.aMax → t.anchead = 0#12) : Inv t := by
  obtain ⟨hx, hy, hxx, hxy⟩ := hsums
  rw [ht]
  exact
    { h with
      ancn_le := hle, anchead_lt := hlt, anchead_zero := hzero
      sx_sum := hx, sy_sum := hy, sxx_sum := hxx, sxy_sum := hxy }

theorem Inv.clearAnchors (h : Inv s) : Inv s.clearAnchors :=
  h.withFifo _ rfl ⟨rfl, rfl, rfl, rfl⟩ (Nat.zero_le _) (Nat.zero_lt_of_lt h.anchead_lt) fun _ => rfl

/-- At capacity the oldest anchor makes room, so the FIFO stays full; below it the FIFO grows by one and
`ANCHEAD` stays (spec 43_rate_estimator R213). -/
theorem Inv.addAnchor (h : Inv s) (a : Anchor) : Inv (s.addAnchor a) := by
  obtain ⟨-, -, hmin, hmax⟩ := h.cfg_valid
  have hlen := h.ancn_le
  by_cases hfull : s.ancn = s.cfg.aMax
  · have hadd : s.addAnchor a = s.evictOldest.appendAnchor a := by rw [State.addAnchor, if_pos hfull]
    have hevict := evictOldest_ancn s
    have hancn : (s.evictOldest.appendAnchor a).ancn = s.cfg.aMax := by
      rw [appendAnchor_ancn]
      omega
    rw [hadd]
    exact h.withFifo _ (by unfold State.evictOldest; split <;> rfl)
      (h.sumsMatch.evictOldest.appendAnchor a (by omega)) hancn.le
      (evictOldest_anchead_lt s hmax h.anchead_lt) fun hlt => absurd hancn hlt.ne
  · have hadd : s.addAnchor a = s.appendAnchor a := by rw [State.addAnchor, if_neg hfull]
    have hancn := appendAnchor_ancn s a
    rw [hadd]
    exact h.withFifo _ rfl (h.sumsMatch.appendAnchor a (by omega)) (by omega) h.anchead_lt
      fun hlt => h.anchead_zero (by omega)

end

/-! ## Every step keeps the invariant -/

section

variable {s : State}

theorem RuleLeaves.inv {u : State} {i : Instr} (hleaves : RuleLeaves s i u) (h : Inv s) : Inv u := by
  cases hleaves with
  | same => exact h
  | stored _ a bs inside => exact h.storeBytes a bs inside
  | coldStarted => exact h.data ..
  | pushed _ v => exact h.push v
  | nominal ra rb d => exact h.storeNominal d
  | armed => exact h.armInit
  | primed rd ra raw configured => exact ((h.prime s.firnom).data ..).clearInit configured
  | filtered _ v raw filt => exact (h.push v).data ..
  | cleared => exact h.clearAnchors
  | added _ a => exact h.addAnchor a

theorem exec_inv {t : State} {i : Instr} (h : Inv s) (hexec : exec i s = .next t) : Inv t := by
  rcases (exec_next ..).1 hexec with ⟨u, v, hrule, rfl⟩ | ⟨k, hrule, rfl⟩
  · exact ((commandRule_leaves s i u v hrule).inv h).writeBack ..
  · have hcause : causeCode k ≠ 1#8 := fun hk =>
      one_notMem_raisableCodes i (hk ▸ commandRule_error s i k hrule)
    have hlegal := legalWord_encode i
    exact h.enterFault k _ (by simp [hcause, hlegal])

theorem runCommand_inv {t : State} (w : CmdWord) (h : Inv s) (hrun : runCommand w s = .next t) : Inv t := by
  rcases runCommand_cases w s with ⟨-, hr⟩ | ⟨-, ⟨e, hdec⟩, hr⟩ | ⟨-, i, -, hr⟩ <;>
    rw [hr] at hrun
  · cases hrun
    exact h
  · cases hrun
    exact h.enterFault _ w (by simp [causeCode, legalWord_of_decode_error w e hdec])
  · exact exec_inv h hrun

theorem Inv.hostWrite (h : Inv s) (a : Nat) (bs : List Byte) : Inv (s.hostWrite a bs) := by
  unfold State.hostWrite
  split
  next hin => exact h.storeBytes a bs ((inMem_iff ..).1 hin)
  next => exact h

theorem transact_inv {t : State} (x : Transaction) (h : Inv s) (hx : transact x s = .next t) : Inv t := by
  cases x with
  | reset => cases hx; exact (inv_resetWith _ _ h.cfg_valid h.mem_wf h.mem_inside).data ..
  | cmd w => exact runCommand_inv w h hx
  | regwr r v => cases hx; exact h.setReg r v
  | memwr a bs => cases hx; exact h.hostWrite a bs
  | regrd _ | memrd _ _ | csrrd _ => cases hx; exact h.data ..

end

/-- Settles O51: a step is idle or one transaction, and a command is one of the updates of `RuleLeaves` or the
fault entry; each has its lemma above. -/
theorem everyStepKeepsTheInvariant : Obligations.EveryStepKeepsTheInvariant := by
  intro s t h hstep
  cases hin : s.input with
  | nil =>
    rw [step_nil s hin] at hstep
    cases hstep
    exact h
  | cons x rest =>
    rw [step_cons s x rest hin] at hstep
    exact transact_inv (s := { s with input := rest }) x (h.data ..) hstep

end Sys2Proof.Machine

/-! # The memory: what a command stores

`MemChange` is all that a command can do to `MEM`; the loops of unit CONV are the only rules that store. -/

namespace Sys2Proof.Machine

/-- What a command does to `MEM` (spec 20_memory R68, R69): nothing, or one write that fills its destination
operand exactly. -/
inductive MemChange (s : State) (i : Instr) : Memory → Prop
  | kept : MemChange s i s.mem
  | stored (a : Nat) (bs : List Byte) (operand : storedRange s i = some (a, bs.length)) :
    MemChange s i (s.mem.writeBytes a bs)

theorem MemChange.of_eq {s : State} {i : Instr} {m : Memory} (h : m = s.mem) : MemChange s i m :=
  h ▸ .kept

theorem forward_memChange {i : Instr} {wc : Width} {bo : ByteOrder} {ra rb rc : Reg} {s u : State}
    (h : forward wc bo ra rb rc s = .ok u)
    (operand : storedRange s i = some ((s.reg ra).toNat, widthBytes wc * (s.reg rc).toNat)) :
    MemChange s i u.mem := by
  obtain ⟨-, bs, hbs, rfl⟩ := (forward_ok ..).1 h
  have hlen := clipBytes_length wc bo _ bs hbs
  rw [readSamples_length] at hlen
  exact .stored _ bs (hlen ▸ operand)

theorem inverse_memChange {i : Instr} {wc : Width} {bo : ByteOrder} {ra rb rc : Reg} {s u : State}
    (h : inverse wc bo ra rb rc s = .ok u)
    (operand : storedRange s i = some ((s.reg ra).toNat, 4 * (s.reg rc).toNat)) :
    MemChange s i u.mem := by
  obtain ⟨-, rfl⟩ := (inverse_ok ..).1 h
  refine .stored _ _ ?_
  rw [tofBytes_length, readSamples_length]
  exact operand

theorem stampRule_mem {s u : State} {raw v : Word64} (h : s.stampRule raw = .ok (u, v)) :
    u.mem = s.mem := by
  simp only [State.stampRule] at h
  split_ifs at h <;> cases h
  · rfl
  · exact push_mem ..

theorem commandRule_memChange {s u : State} {i : Instr} {v : Word64} (h : commandRule s i = .ok (u, v)) :
    MemChange s i u.mem := by
  cases i
  case clip8 | clip16le | clip24le | clip32le | clip16be | clip24be | clip32be =>
    obtain ⟨u, hf, ⟨⟩⟩ := (except_map_eq_ok ..).1 h
    exact forward_memChange hf (by simp only [storedRange, widthBytes, Nat.one_mul])
  case tof8 | tof16le | tof24le | tof32le | tof16be | tof24be | tof32be =>
    obtain ⟨u, hf, ⟨⟩⟩ := (except_map_eq_ok ..).1 h
    exact inverse_memChange hf rfl
  case fb3 | fb4 | ancf | anct | estrate | estf2t =>
    obtain ⟨_, -, ⟨⟩⟩ := (except_map_eq_ok ..).1 h
    exact .kept
  case csrr =>
    simp only [commandRule] at h
    split at h <;> cases h
    exact .kept
  case firnom =>
    obtain ⟨u, hn, ⟨⟩⟩ := (except_map_eq_ok ..).1 h
    obtain ⟨-, -, rfl⟩ := (storeNominal_ok ..).1 hn
    exact .kept
  case tstamp => exact .of_eq (stampRule_mem h)
  case firpush => cases h; exact .of_eq (push_mem ..)
  case ancadd => cases h; exact .of_eq (addAnchor_mem ..)
  all_goals cases h; exact .kept

theorem writeBack_mem (s : State) (d : Option Reg) (v : Word64) : (s.writeBack d v).mem = s.mem := by
  cases d <;> rfl

theorem exec_memChange {s t : State} {i : Instr} (h : exec i s = .next t) : MemChange s i t.mem := by
  rcases (exec_next ..).1 h with ⟨u, v, hrule, rfl⟩ | ⟨k, -, rfl⟩
  · rw [writeBack_mem]
    exact commandRule_memChange hrule
  · exact .kept

/-- Settles O55: a command keeps `MEM` or fills its destination operand (`exec_memChange`), and a write changes
no byte outside the bytes it writes (`read_writeBytes_outside`). -/
theorem commandStoresOnlyItsOperand : Obligations.CommandStoresOnlyItsOperand := by
  intro i s t h
  have hmem := exec_memChange h
  simp only [SameMem, SameMemOutside]
  generalize t.mem = m at hmem ⊢
  cases hmem with
  | kept => exact ⟨fun _ _ => rfl, fun _ _ _ _ _ => rfl⟩
  | stored a bs operand =>
    simp only [operand, reduceCtorEq, false_imp_iff, true_and, Option.some.injEq, Prod.mk.injEq]
    rintro _ _ ⟨rfl, rfl⟩ b hb
    exact read_writeBytes_outside s.mem a b bs hb

end Sys2Proof.Machine

/-! # Encoding: commands, their words and the opcode table (spec 30_encoding)

Decoding inverts encoding field by field. The rows of the table have distinct mnemonics and accept no word in
common, so the row of a command (`rowMatch`) is the only one its word matches. -/

namespace Sys2Proof

/-! ## Decoding an encoded command -/

/-- Only the commands with an immediate split an operand over several fields; every other operand is a field of
the word. -/
theorem decodeFields_encodeFields (i : Instr) : decodeFields (encodeFields i) = .ok i := by
  cases i
  case li rd imm16 => exact congrArg (Except.ok <| Instr.li rd ·) (immFields_imm16 0x01 rd imm16)
  case lis rd imm16 => exact congrArg (Except.ok <| Instr.lis rd ·) (immFields_imm16 0x02 rd imm16)
  case csrr rd csr => exact congrArg (Except.ok <| Instr.csrr rd ·) (csr_split csr)
  all_goals rfl

theorem decode_encode (i : Instr) : decode (encode i) = .ok i := by
  rw [decode, encode, ofWord_toWord, decodeFields_encodeFields]

/-- Settles O1: the fields of a word are those it was made of, and decode to the command (`decode_encode`). -/
theorem decodeEncodeRoundTrip : Obligations.DecodeEncodeRoundTrip := decode_encode

/-- Settles O2: the decoder reads every field (`encode_of_decode`). -/
theorem decodedWordIsItsEncoding : Obligations.DecodedWordIsItsEncoding :=
  fun w i h => (encode_of_decode w i h).symm

/-! ## The rows of the opcode table -/

theorem accepts_iff (r : OpcodeRow) (w : CmdWord) : r.accepts w = true ↔ w &&& r.mask = r.mtch :=
  beq_iff_eq

/-- Two rows whose matches agree on the bits that both masks hold are the same row. -/
theorem row_eq_of_matches_agree : ∀ r ∈ opcodeTable, ∀ r' ∈ opcodeTable,
    r.mtch &&& r'.mask = r'.mtch &&& r.mask → r = r' := by
  decide

theorem row_eq_of_mnemonic_eq : ∀ r ∈ opcodeTable, ∀ r' ∈ opcodeTable,
    r.mnemonic = r'.mnemonic → r = r' := by
  decide

/-- No two rows match one word (spec 30_encoding R93). -/
theorem row_unique (r : OpcodeRow) (hr : r ∈ opcodeTable) (r' : OpcodeRow) (hr' : r' ∈ opcodeTable)
    (w : CmdWord) (h : w &&& r.mask = r.mtch) (h' : w &&& r'.mask = r'.mtch) : r = r' := by
  refine row_eq_of_matches_agree r hr r' hr' ?_
  rw [← h, ← h', BitVec.and_assoc, BitVec.and_assoc, BitVec.and_comm r.mask]

/-- The word of a command matches the row of its mnemonic, and no other. -/
theorem row_matches_encode_iff (r : OpcodeRow) (hr : r ∈ opcodeTable) (i : Instr) :
    encode i &&& r.mask = r.mtch ↔ i.mnemonic = r.mnemonic := by
  obtain ⟨q, hq, hname, hmatch⟩ := rowMatch i
  rw [accepts_iff] at hmatch
  constructor
  · intro h
    rw [row_unique r hr q hq _ h hmatch, hname]
  · intro h
    rwa [row_eq_of_mnemonic_eq r hr q hq (h.symm.trans hname.symm)]

/-- A word that a row matches decodes. -/
theorem decode_of_row_matches (r : OpcodeRow) (hr : r ∈ opcodeTable) (w : CmdWord)
    (h : w &&& r.mask = r.mtch) : ∃ i, decode w = .ok i :=
  decodeFields_of_accepts r hr (Fields.ofWord w) (by rwa [toWord_ofWord, accepts_iff])

/-- A word that no row matches spells no command (spec 30_encoding R98). -/
theorem decode_error_of_no_row (w : CmdWord) (h : ∀ r ∈ opcodeTable, w &&& r.mask ≠ r.mtch) :
    ∃ e, decode w = .error e := by
  cases hdec : decode w with
  | error e => exact ⟨e, rfl⟩
  | ok i =>
    obtain ⟨r, hr, -, hmatch⟩ := rowMatch i
    rw [accepts_iff, ← encode_of_decode w i hdec] at hmatch
    exact absurd hmatch (h r hr)

/-- Settles O3: a word that matches a row decodes, so it is the word of a command, which matches the row of its
mnemonic alone (`row_matches_encode_iff`). -/
theorem rowsSpellCommands : Obligations.RowsSpellCommands := by
  refine ⟨fun r hr w => ⟨fun h => ?_, fun ⟨i, hdec, hname⟩ => ?_⟩, row_unique, decode_error_of_no_row⟩
  · obtain ⟨i, hdec⟩ := decode_of_row_matches r hr w h
    rw [encode_of_decode w i hdec] at h
    exact ⟨i, hdec, (row_matches_encode_iff r hr i).1 h⟩
  · rw [encode_of_decode w i hdec]
    exact (row_matches_encode_iff r hr i).2 hname

end Sys2Proof

namespace Sys2Proof.Machine

/-! ## Illegal words -/

theorem enterFault_raises (s : State) (k : Cause) (w : CmdWord) :
    Raises (causeCode k) w s (s.enterFault k w) where
  status := statusWord_eq _
  fcmd := rfl
  regs _ := rfl
  filter := ⟨rfl, rfl, rfl, rfl, rfl, rfl, rfl⟩
  anchors := ⟨rfl, rfl, rfl, rfl, rfl, rfl⟩
  mem _ := rfl
  host := ⟨rfl, rfl, rfl⟩

/-- What the block does with a word that spells no command (spec 30_encoding R98). -/
theorem runCommand_of_decode_error (w : CmdWord) (s : State) (e : DecodeError) (hs : s.faulted = false)
    (hdec : decode w = .error e) : runCommand w s = .next (s.enterFault .illegalCommand w) := by
  simp [runCommand, hs, hdec, raise]

theorem step_command (s : State) (w : CmdWord) (rest : List Transaction) (h : s.input = .cmd w :: rest) :
    step s = runCommand w (s.took rest) :=
  step_cons s (.cmd w) rest h

/-- Settles O60: the word does not decode (`decode_error_of_no_row`), so the step enters the fault, which changes
`STATUS` and `FCMD` alone (`enterFault_raises`). -/
theorem illegalWordRaisesIllegalCommand : Obligations.IllegalWordRaisesIllegalCommand := by
  intro s w rest hin hs hrows
  obtain ⟨e, hdec⟩ := decode_error_of_no_row w hrows
  exact ⟨_, (step_command s w rest hin).trans (runCommand_of_decode_error w (s.took rest) e hs hdec),
    enterFault_raises (s.took rest) .illegalCommand w⟩

end Sys2Proof.Machine

/-! # Loading a constant (spec 30_encoding R101)

The value in `rd` after the commands down to chunk `k` is the constant shifted right by its `k` lowest chunks;
each `LIS` puts one chunk back (`shiftInsert_chunk`). -/

namespace Sys2Proof

/-! ## The form of the expansion -/

theorem chunk_eq_ofNat (v : Word64) (k : Nat) : chunk v k = BitVec.ofNat 16 (v.toNat / 65536 ^ k) := by
  have hpow : 2 ^ (16 * k) = 65536 ^ k := by rw [Nat.pow_mul]
  rw [chunk, BitVec.extractLsb', Nat.shiftRight_eq_div_pow, hpow]

/-- `LI` of the chunk `j`, then `LIS` of each chunk below it. -/
def loadFromChunk (rd : Reg) (v : Word64) (j : Nat) : List Instr :=
  .li rd (chunk v j) :: ((List.range j).reverse.map (chunk v)).map (.lis rd)

/-- `j` is the chunk the expansion starts from: the most significant non-zero one, 0 if there is none. -/
structure IsTopChunk (v : Word64) (j : Nat) : Prop where
  lt : j < 4
  above : ∀ k < 4, j < k → chunk v k = 0
  nonzero : j = 0 ∨ chunk v j ≠ 0

/-- The cases of `li64` are the four places of the top chunk. -/
theorem li64_eq_loadFromChunk (rd : Reg) (v : Word64) :
    ∃ j, IsTopChunk v j ∧ li64 rd v = loadFromChunk rd v j := by
  unfold li64
  split_ifs with h3 h2 h1
  · exact ⟨3, ⟨by decide, by omega, .inr h3⟩, rfl⟩
  · refine ⟨2, ⟨by decide, fun k hk hlt => ?_, .inr h2⟩, rfl⟩
    obtain rfl : k = 3 := by omega
    exact not_not.1 h3
  · refine ⟨1, ⟨by decide, fun k hk hlt => ?_, .inr h1⟩, rfl⟩
    obtain rfl | rfl : k = 2 ∨ k = 3 := by omega
    exacts [not_not.1 h2, not_not.1 h3]
  · refine ⟨0, ⟨by decide, fun k hk hlt => ?_, .inl rfl⟩, rfl⟩
    obtain rfl | rfl | rfl : k = 1 ∨ k = 2 ∨ k = 3 := by omega
    exacts [not_not.1 h1, not_not.1 h2, not_not.1 h3]

theorem loadFromChunk_length (rd : Reg) (v : Word64) (j : Nat) :
    (loadFromChunk rd v j).length = j + 1 := by
  simp [loadFromChunk]

end Sys2Proof

namespace Sys2Proof.Machine

/-! ## The value it loads -/

theorem shiftInsert_toNat (x : Word64) (c : BitVec 16) :
    (shiftInsert x c).toNat = x.toNat % 2 ^ 48 * 2 ^ 16 + c.toNat := by
  rw [shiftInsert, toNat_append_eq, BitVec.extractLsb'_toNat, Nat.shiftRight_zero]

/-- `LIS` of the next chunk below. -/
theorem shiftInsert_chunk (v : Word64) (k : Nat) :
    shiftInsert (v >>> (16 * (k + 1))) (chunk v k) = v >>> (16 * k) := by
  apply BitVec.eq_of_toNat_eq
  have hsucc : v.toNat >>> (16 * (k + 1)) = v.toNat >>> (16 * k) / 2 ^ 16 := by
    rw [← Nat.shiftRight_eq_div_pow, ← Nat.shiftRight_add, Nat.mul_succ]
  have hlt : v.toNat >>> (16 * k) < 2 ^ 64 := (Nat.shiftRight_le ..).trans_lt v.isLt
  rw [shiftInsert_toNat, chunk, BitVec.extractLsb'_toNat, BitVec.toNat_ushiftRight,
    BitVec.toNat_ushiftRight, hsucc]
  generalize v.toNat >>> (16 * k) = n at hlt ⊢
  omega

/-- `LI` is `LIS` over 0. -/
theorem shiftInsert_zero (c : BitVec 16) : shiftInsert 0#64 c = c.setWidth 64 := by
  apply BitVec.eq_of_toNat_eq
  rw [shiftInsert_toNat, BitVec.toNat_setWidth, BitVec.toNat_zero]
  omega

/-- Nothing is left of a constant above its zero chunks. -/
theorem shiftRight_eq_zero_of_chunks (v : Word64) (k : Nat) (hk : k ≤ 4)
    (h : ∀ i < 4, k ≤ i → chunk v i = 0) : v >>> (16 * k) = 0#64 := by
  induction hk using Nat.decreasingInduction with
  | self => exact BitVec.ushiftRight_eq_zero (by decide)
  | of_succ k hk ih =>
    rw [← shiftInsert_chunk, ih fun i hi hki => h i hi (by omega), h k hk le_rfl]
    decide

theorem setWidth_topChunk (v : Word64) (j : Nat) (h : IsTopChunk v j) :
    (chunk v j).setWidth 64 = v >>> (16 * j) := by
  rw [← shiftInsert_zero, ← shiftRight_eq_zero_of_chunks v (j + 1) h.lt h.above, shiftInsert_chunk]

/-- `LIS` of every chunk below the chunk `j`, over the chunks from `j` up, gives the constant. -/
theorem foldl_shiftInsert_chunks (v : Word64) (j : Nat) :
    ((List.range j).reverse.map (chunk v)).foldl shiftInsert (v >>> (16 * j)) = v := by
  induction j with
  | zero => simp
  | succ j ih =>
    rw [List.range_succ, List.reverse_append, List.reverse_singleton, List.singleton_append, List.map_cons,
      List.foldl_cons, shiftInsert_chunk, ih]

/-! ## Running it -/

/-- A pending command runs, unless a fault is recorded (spec 60_exceptions R270). -/
theorem step_encode (s : State) (i : Instr) (rest : List Transaction)
    (hin : s.input = .cmd (encode i) :: rest) (hs : s.faulted = false) :
    step s = exec i (s.took rest) := by
  have hs' : (s.took rest).faulted = false := hs
  rw [step_command s _ rest hin, runCommand, hs', decode_encode]
  rfl

theorem setReg_setReg_same (s : State) (r : Reg) (v w : Word64) :
    (s.setReg r v).setReg r w = s.setReg r w := by
  simp [State.setReg]

theorem setReg_reg_self (s : State) (r : Reg) : s.setReg r (s.reg r) = s := by
  simp [State.setReg, State.reg]

theorem setReg_writesReg (s : State) (r : Reg) (v : Word64) : WritesReg r v s (s.setReg r v) where
  value := setReg_reg_same s r v
  regs q hq := setReg_reg_other s r q v hq
  fault := ⟨rfl, rfl⟩
  filter := ⟨rfl, rfl, rfl, rfl, rfl, rfl, rfl⟩
  anchors := ⟨rfl, rfl, rfl, rfl, rfl, rfl⟩
  mem _ := rfl
  host := ⟨rfl, rfl, rfl⟩

/-- The transactions that present these commands (spec 60_exceptions R270). -/
def presented (l : List Instr) : List Transaction := l.map fun i => .cmd (encode i)

theorem run_succ {n : Nat} {s t u : State} (hstep : step s = .next t)
    (hrun : Host.Core.run Sys2Proof.core n t = .next u) :
    Host.Core.run Sys2Proof.core (n + 1) s = .next u := by
  have hcore : Sys2Proof.core.step s = .next t := hstep
  simpa only [Host.Core.run, hcore] using hrun

/-- A run of pending commands: the first executes and leaves the others to run. -/
theorem run_presented_cons {i : Instr} {l : List Instr} {s t u : State} {rest : List Transaction}
    (hs : s.faulted = false)
    (hexec : exec i (s.took (presented l ++ rest)) = .next (t.took (presented l ++ rest)))
    (hrun : Host.Core.run Sys2Proof.core l.length (t.took (presented l ++ rest)) = .next u) :
    Host.Core.run Sys2Proof.core (i :: l).length (s.took (presented (i :: l) ++ rest)) = .next u :=
  run_succ ((step_encode (s.took (presented (i :: l) ++ rest)) i _ rfl hs).trans hexec) hrun

/-- Pending `LIS` commands to one register insert their constants in order. -/
theorem run_lis (rd : Reg) (cs : List (BitVec 16)) (s : State) (rest : List Transaction)
    (hs : s.faulted = false) :
    Host.Core.run Sys2Proof.core (cs.map (Instr.lis rd)).length
        (s.took (presented (cs.map (.lis rd)) ++ rest)) =
      .next ((s.took rest).setReg rd (cs.foldl shiftInsert (s.reg rd))) := by
  induction cs generalizing s with
  | nil => exact congrArg Host.Outcome.next (setReg_reg_self (s.took rest) rd).symm
  | cons c cs ih =>
    have hrest := ih (s.setReg rd (shiftInsert (s.reg rd) c)) hs
    rw [setReg_reg_same] at hrest
    refine run_presented_cons hs rfl (hrest.trans (congrArg Host.Outcome.next ?_))
    exact setReg_setReg_same (s.took rest) ..

/-- The commands from the top chunk down load the constant, and change nothing else. -/
theorem run_loadFromChunk (rd : Reg) (v : Word64) (j : Nat) (h : IsTopChunk v j) (s : State)
    (rest : List Transaction) (hs : s.faulted = false) :
    Host.Core.run Sys2Proof.core (loadFromChunk rd v j).length
        (s.took (presented (loadFromChunk rd v j) ++ rest)) = .next ((s.took rest).setReg rd v) := by
  have hli (later) : exec (.li rd (chunk v j)) (s.took later) =
      .next ((s.setReg rd (v >>> (16 * j))).took later) := by
    rw [← setWidth_topChunk v j h]
    rfl
  have hlis := run_lis rd ((List.range j).reverse.map (chunk v)) (s.setReg rd (v >>> (16 * j))) rest hs
  rw [setReg_reg_same, foldl_shiftInsert_chunks] at hlis
  refine run_presented_cons hs (hli _) (hlis.trans (congrArg Host.Outcome.next ?_))
  exact setReg_setReg_same (s.took rest) ..

/-- Settles O8: `li64` loads from the top chunk down (`li64_eq_loadFromChunk`), and such a run leaves the constant
in the register (`run_loadFromChunk`). -/
theorem loadConstantExpansionLoadsAnyConstant : Obligations.LoadConstantExpansionLoadsAnyConstant := by
  intro rd v c
  have hc : c = chunk v := funext fun k => (chunk_eq_ofNat v k).symm
  obtain ⟨j, htop, hli64⟩ := li64_eq_loadFromChunk rd v
  have hlt := htop.lt
  have hlen := loadFromChunk_length rd v j
  rw [hc, hli64]
  refine ⟨⟨j, hlt, htop.above, htop.nonzero, ?_⟩, by omega, by omega, fun s hs =>
    ⟨s.setReg rd v, run_loadFromChunk rd v j htop s s.input hs, setReg_writesReg s rd v⟩⟩
  rw [loadFromChunk, List.map_map]
  rfl

end Sys2Proof.Machine

/-! # Primitives: byte swaps, feedback values and 16.16 values (spec 40_primitives)

Each command's result as arithmetic, once (`exec_bswap16` to `exec_fxf`); the payload of the feedback decoders is
the sample word `sampleValue` of the statements (`leNat_readBytes`). -/

namespace Sys2Proof

/-! ## The words of two-register commands -/

/-- The word of a command that names `rd` and `ra` and leaves the other fields zero. -/
theorem twoRegisterWord_toNat (op : BitVec 8) (rd ra : Reg) :
    (Fields.toWord ⟨op, rd, ra, 0, 0, 0⟩).toNat =
      op.toNat * 2 ^ 24 + rd.toNat * 2 ^ 20 + ra.toNat * 2 ^ 16 := by
  simp only [Fields.toWord, toNat_append_eq, BitVec.ofNat_eq_ofNat, BitVec.toNat_zero]
  omega

end Sys2Proof

namespace Sys2Proof.Machine

/-- The words of an opcode that are no command's raise `IllegalCommand`, if `spelled` covers all that the
decoder reads at this opcode. -/
theorem otherWordsIllegal_of_decodeFields {op : BitVec 8} {spelled : Instr → Prop}
    (h : ∀ f i, f.op = op → decodeFields f = .ok i → spelled i) : OtherWordsIllegal op spelled := by
  intro w s hop hother hs
  cases hdec : decode w with
  | ok i => exact absurd (encode_of_decode w i hdec) (hother i (h (Fields.ofWord w) i hop hdec))
  | error e =>
    exact ⟨_, runCommand_of_decode_error w s e hs hdec, enterFault_raises s .illegalCommand w⟩

theorem otherWordsIllegal_twoRegister {op : BitVec 8} {mk : Reg → Reg → Instr}
    (hrow : ∀ rd ra rb rc fn, decodeFields ⟨op, rd, ra, rb, rc, fn⟩ =
      whenZero (rb == 0 && rc == 0 && fn == 0) (mk rd ra)) :
    OtherWordsIllegal op (fun i => ∃ rd ra, i = mk rd ra) := by
  refine otherWordsIllegal_of_decodeFields fun ⟨_, rd, ra, _, _, _⟩ i hop hdec => ?_
  subst hop
  obtain ⟨-, hi⟩ := (whenZero_ok ..).1 ((hrow ..).symm.trans hdec)
  exact ⟨rd, ra, hi.symm⟩

/-! ## Results as arithmetic -/

theorem toNat_ofNat_of_lt {x : Nat} (h : x < 2 ^ 64) : (BitVec.ofNat 64 x).toNat = x := by
  rw [BitVec.toNat_ofNat, Nat.mod_eq_of_lt h]

theorem swap16_eq_ofNat (v : Word64) :
    swap16 v = BitVec.ofNat 64 (v.toNat % 256 * 256 + v.toNat / 256 % 256) := by
  apply BitVec.eq_of_toNat_eq
  simp only [swap16, toNat_append_eq, BitVec.toNat_setWidth, BitVec.extractLsb'_toNat, BitVec.toNat_ofNat,
    Nat.shiftRight_eq_div_pow, Nat.reducePow, Nat.div_one]

theorem swap32_eq_ofNat (v : Word64) :
    swap32 v = BitVec.ofNat 64 (v.toNat % 256 * 2 ^ 24 + v.toNat / 2 ^ 8 % 256 * 2 ^ 16 +
      v.toNat / 2 ^ 16 % 256 * 2 ^ 8 + v.toNat / 2 ^ 24 % 256) := by
  apply BitVec.eq_of_toNat_eq
  simp only [swap32, toNat_append_eq, BitVec.toNat_setWidth, BitVec.extractLsb'_toNat, BitVec.toNat_ofNat,
    Nat.shiftRight_eq_div_pow, Nat.reducePow, Nat.div_one]
  omega

/-- The whole part of a 16.16 value (spec 40_primitives R125). -/
theorem wholePart_eq_ofNat (v : Word64) :
    (v.extractLsb' 16 16).setWidth 64 = BitVec.ofNat 64 (v.toNat / 65536 % 65536) := by
  apply BitVec.eq_of_toNat_eq
  simp only [BitVec.toNat_setWidth, BitVec.extractLsb'_toNat, BitVec.toNat_ofNat,
    Nat.shiftRight_eq_div_pow]

/-- The fraction of a 16.16 value, times 1000 (spec 40_primitives R126). -/
theorem fraction_eq_ofNat (v : Word64) :
    (v.extractLsb' 0 16).setWidth 64 * 1000#64 = BitVec.ofNat 64 (v.toNat % 65536 * 1000) := by
  apply BitVec.eq_of_toNat_eq
  simp only [BitVec.toNat_mul, BitVec.toNat_setWidth, BitVec.extractLsb'_toNat, BitVec.toNat_ofNat,
    Nat.shiftRight_zero]
  omega

theorem exec_bswap16 (rd ra : Reg) (s : State) :
    exec (.bswap16 rd ra) s = .next (s.setReg rd
      (BitVec.ofNat 64 ((s.reg ra).toNat % 256 * 256 + (s.reg ra).toNat / 256 % 256))) := by
  rw [← swap16_eq_ofNat]
  rfl

theorem exec_bswap32 (rd ra : Reg) (s : State) :
    exec (.bswap32 rd ra) s = .next (s.setReg rd
      (BitVec.ofNat 64 ((s.reg ra).toNat % 256 * 2 ^ 24 + (s.reg ra).toNat / 2 ^ 8 % 256 * 2 ^ 16 +
        (s.reg ra).toNat / 2 ^ 16 % 256 * 2 ^ 8 + (s.reg ra).toNat / 2 ^ 24 % 256))) := by
  rw [← swap32_eq_ofNat]
  rfl

theorem exec_fxw (rd ra : Reg) (s : State) :
    exec (.fxw rd ra) s =
      .next (s.setReg rd (BitVec.ofNat 64 ((s.reg ra).toNat / 65536 % 65536))) := by
  rw [← wholePart_eq_ofNat]
  rfl

theorem exec_fxf (rd ra : Reg) (s : State) :
    exec (.fxf rd ra) s = .next (s.setReg rd (BitVec.ofNat 64 ((s.reg ra).toNat % 65536 * 1000))) := by
  rw [← fraction_eq_ofNat]
  rfl

/-! ## The feedback payload -/

theorem leSampleValue_succ (m : Memory) (n a : Nat) :
    sampleValue m .le (n + 1) a = (m.read a).toNat + 256 * sampleValue m .le n (a + 1) := by
  simp only [sampleValue, placeValue, Finset.sum_range_succ', Finset.mul_sum, pow_zero, mul_one,
    Nat.add_zero]
  rw [Nat.add_comm]
  congr 1
  refine Finset.sum_congr rfl fun k _ => ?_
  rw [Nat.add_right_comm a 1 k, ← Nat.add_assoc a k 1, pow_succ]
  ring

theorem leNat_readBytes (m : Memory) (a n : Nat) :
    leNat (m.readBytes a n) = sampleValue m .le n a := by
  induction n generalizing a with
  | zero => rfl
  | succ n ih => rw [Memory.readBytes, leNat, ih, leSampleValue_succ]

theorem leSampleValue_lt (m : Memory) (n a : Nat) : sampleValue m .le n a < 256 ^ n := by
  induction n generalizing a with
  | zero => exact Nat.one_pos
  | succ n ih =>
    have hbyte := (m.read a).isLt
    have hrest := ih (a + 1)
    rw [leSampleValue_succ, pow_succ]
    omega

theorem payload_inside {s : State} {ra : Reg} {n : Nat} (h : (s.reg ra).toNat + n ≤ s.cfg.memSize) :
    s.payload ra n = .ok (sampleValue s.mem .le n (s.reg ra).toNat) :=
  (payload_ok ..).2 ⟨h, (leNat_readBytes ..).symm⟩

theorem payload_outside {s : State} {ra : Reg} {n : Nat} (h : s.cfg.memSize < (s.reg ra).toNat + n) :
    s.payload ra n = .error .addrRange :=
  (payload_error ..).2 ⟨rfl, h⟩

theorem exec_fb3 {rd ra : Reg} {s : State} (h : (s.reg ra).toNat + 3 ≤ s.cfg.memSize) :
    exec (.fb3 rd ra) s =
      .next (s.setReg rd (BitVec.ofNat 64 (sampleValue s.mem .le 3 (s.reg ra).toNat * 4))) := by
  rw [exec_eq_complete, commandRule, payload_inside h]
  rfl

theorem exec_fb4 {rd ra : Reg} {s : State} (h : (s.reg ra).toNat + 4 ≤ s.cfg.memSize) :
    exec (.fb4 rd ra) s =
      .next (s.setReg rd (BitVec.ofNat 64 (sampleValue s.mem .le 4 (s.reg ra).toNat))) := by
  rw [exec_eq_complete, commandRule, payload_inside h]
  rfl

/-- A command whose rule raises a cause enters its fault (spec 60_exceptions R262). -/
theorem raisesCode_of_commandRule {i : Instr} {s : State} {k : Cause} (h : commandRule s i = .error k) :
    RaisesCode (causeCode k) i s :=
  ⟨_, (exec_next ..).2 (.inr ⟨k, h, rfl⟩), enterFault_raises s k (encode i)⟩

theorem fb3_raises_addrRange {rd ra : Reg} {s : State} (h : s.cfg.memSize < (s.reg ra).toNat + 3) :
    RaisesCode 2 (.fb3 rd ra) s :=
  raisesCode_of_commandRule (k := .addrRange) ((except_map_eq_error ..).2 (payload_outside h))

theorem fb4_raises_addrRange {rd ra : Reg} {s : State} (h : s.cfg.memSize < (s.reg ra).toNat + 4) :
    RaisesCode 2 (.fb4 rd ra) s :=
  raisesCode_of_commandRule (k := .addrRange) ((except_map_eq_error ..).2 (payload_outside h))

/-- The form in which the statements say that a command completes with one register write. -/
theorem exists_writesReg {i : Instr} {s : State} {rd : Reg} {v w : Word64}
    (h : exec i s = .next (s.setReg rd v)) (hv : v = w) : ∃ t, exec i s = .next t ∧ WritesReg rd w s t :=
  ⟨_, h, hv ▸ setReg_writesReg s rd v⟩

/-! ## The statements -/

/-- Four times a 24-bit payload splits at bit 16 as the payload does at bit 14. -/
theorem promoted_split (p : Nat) (hp : p < 2 ^ 24) :
    p * 4 / 65536 % 65536 = p / 2 ^ 14 ∧ p * 4 % 65536 = p % 2 ^ 14 * 4 := by
  omega

/-- Settles O14: the two parts are quotient and remainder by `2^16`, and four times the payload splits there as
the payload does at `2^14` (`promoted_split`). -/
theorem fixedPointPartsRecombine : Obligations.FixedPointPartsRecombine := by
  refine ⟨fun rd ra s hv => ⟨_, _, exec_fxw rd ra s, exec_fxf rd ra s, ?_⟩, fun rd ra s hin =>
    ⟨_, _, _, exec_fb3 hin, exec_fxw rd rd _, exec_fxf rd rd _, ?_⟩⟩
  · rw [setReg_reg_same, setReg_reg_same, toNat_ofNat_of_lt (by omega), toNat_ofNat_of_lt (by omega)]
    omega
  · have hp := leSampleValue_lt s.mem 3 (s.reg ra).toNat
    obtain ⟨hwhole, hfraction⟩ := promoted_split _ hp
    simp only [setReg_reg_same]
    rw [toNat_ofNat_of_lt (x := _ * 4) (by omega), hwhole, hfraction,
      toNat_ofNat_of_lt (by omega), toNat_ofNat_of_lt (by omega)]
    omega

/-- Settles O10: the results are sums of bytes (`exec_bswap16`, `exec_bswap32`). -/
theorem byteSwapsReverseLowBytes : Obligations.ByteSwapsReverseLowBytes :=
  ⟨otherWordsIllegal_twoRegister fun _ _ _ _ _ => rfl,
    otherWordsIllegal_twoRegister fun _ _ _ _ _ => rfl,
    fun rd ra => ⟨twoRegisterWord_toNat 0x10 rd ra, twoRegisterWord_toNat 0x11 rd ra, fun s =>
      ⟨exists_writesReg (exec_bswap16 rd ra s) rfl, exists_writesReg (exec_bswap32 rd ra s) rfl⟩⟩⟩

/-- Settles O11: the payload is the three bytes inside `MEM` (`exec_fb3`), or an `AddrRange`
(`fb3_raises_addrRange`). -/
theorem feedbackThreeBytesDecode : Obligations.FeedbackThreeBytesDecode := by
  refine ⟨otherWordsIllegal_twoRegister fun _ _ _ _ _ => rfl, fun rd ra =>
    ⟨twoRegisterWord_toNat 0x12 rd ra, fun s => ⟨fun hin => exists_writesReg (exec_fb3 hin) ?_,
      fb3_raises_addrRange⟩⟩⟩
  congr 1
  simp only [sampleValue, placeValue, Finset.sum_range_succ, Finset.sum_range_zero, Nat.add_zero]
  omega

/-- Settles O12: as for `FB3`, with the four bytes as they are (`exec_fb4`,
`fb4_raises_addrRange`). -/
theorem feedbackFourBytesDecode : Obligations.FeedbackFourBytesDecode := by
  refine ⟨otherWordsIllegal_twoRegister fun _ _ _ _ _ => rfl, fun rd ra =>
    ⟨twoRegisterWord_toNat 0x13 rd ra, fun s => ⟨fun hin => exists_writesReg (exec_fb4 hin) ?_,
      fb4_raises_addrRange⟩⟩⟩
  congr 1
  simp only [sampleValue, placeValue, Finset.sum_range_succ, Finset.sum_range_zero, Nat.add_zero]
  omega

/-- Settles O13: the results are quotient and remainder by `2^16` (`exec_fxw`, `exec_fxf`). -/
theorem fixedPointValueSplits : Obligations.FixedPointValueSplits :=
  ⟨otherWordsIllegal_twoRegister fun _ _ _ _ _ => rfl,
    otherWordsIllegal_twoRegister fun _ _ _ _ _ => rfl,
    fun rd ra => ⟨twoRegisterWord_toNat 0x14 rd ra, twoRegisterWord_toNat 0x15 rd ra, fun s =>
      ⟨exists_writesReg (exec_fxw rd ra s) rfl, exists_writesReg (exec_fxf rd ra s) rfl⟩⟩⟩

end Sys2Proof.Machine

/-! # Clip and convert: binary32 words (spec 00_scope R12)

A word read as whole units of `2^-149` (`f32val`) is held against its rational value (`f32Rat`), and the word
of a sign and magnitude bits is read back (`f32val_f32Word`). -/

namespace Sys2Proof.Machine

/-! ## The fields of a word -/

/-- A magnitude under a sign bit. -/
def withSign (neg : Bool) (m : Nat) : Int := if neg then -m else m

@[simp] theorem withSign_zero (neg : Bool) : withSign neg 0 = 0 := by
  cases neg <;> rfl

theorem withSign_natAbs (s : Int) : withSign (decide (s < 0)) s.natAbs = s := by
  rcases lt_or_ge s 0 with h | h
  · rw [withSign, decide_eq_true h, if_pos rfl, Int.ofNat_natAbs_of_nonpos h.le, neg_neg]
  · rw [withSign, decide_eq_false h.not_gt, if_neg Bool.false_ne_true, Int.natAbs_of_nonneg h]

theorem withSign_mul (neg : Bool) (m n : Nat) : withSign neg (m * n) = withSign neg m * n := by
  cases neg <;> simp [withSign]

@[simp] theorem natAbs_withSign (neg : Bool) (m : Nat) : (withSign neg m).natAbs = m := by
  cases neg <;> simp [withSign]

theorem withSign_neg_iff (neg : Bool) {m : Nat} (hm : m ≠ 0) : withSign neg m < 0 ↔ neg = true := by
  cases neg <;> simp [withSign, Nat.pos_of_ne_zero hm]

theorem withSign_inj {neg neg' : Bool} {m m' : Nat} (hm : m ≠ 0) (h : withSign neg m = withSign neg' m') :
    neg = neg' ∧ m = m' := by
  obtain rfl : m = m' := by simpa only [natAbs_withSign] using congrArg Int.natAbs h
  rw [Bool.eq_iff_iff, ← withSign_neg_iff neg hm, ← withSign_neg_iff neg' hm, h]
  exact ⟨Iff.rfl, rfl⟩

/-- The exponent field of a word. -/
def expField (w : FloatWord) : Nat := (w.extractLsb' 23 8).toNat

/-- The fraction field of a word. -/
def fracField (w : FloatWord) : Nat := (w.extractLsb' 0 23).toNat

theorem expField_eq (w : FloatWord) : expField w = w.toNat / 2 ^ 23 % 2 ^ 8 := by
  rw [expField, BitVec.extractLsb'_toNat, Nat.shiftRight_eq_div_pow]

theorem fracField_eq (w : FloatWord) : fracField w = w.toNat % 2 ^ 23 := by
  rw [fracField, BitVec.extractLsb'_toNat, Nat.shiftRight_zero]

theorem fracField_lt (w : FloatWord) : fracField w < 2 ^ 23 := (w.extractLsb' 0 23).isLt

/-- A word is determined by its sign, exponent and fraction. -/
theorem floatWord_ext {w w' : FloatWord} (hs : w.getLsbD 31 = w'.getLsbD 31)
    (he : expField w = expField w') (hf : fracField w = fracField w') : w = w' := by
  apply BitVec.eq_of_toNat_eq
  have hw := w.isLt
  have hw' := w'.isLt
  rw [expField_eq, expField_eq] at he
  rw [fracField_eq, fracField_eq] at hf
  simp only [BitVec.getLsbD, Nat.testBit_eq_decide_div_mod_eq, decide_eq_decide] at hs
  omega

theorem f32val_eq (w : FloatWord) :
    f32val w = if expField w = 255 then
        if fracField w ≠ 0 then .nan else if w.getLsbD 31 then .negInf else .posInf
      else .finite (withSign (w.getLsbD 31) (f32Magnitude (expField w) (fracField w))) := rfl

theorem isNaN_iff (w : FloatWord) : isNaN w = true ↔ expField w = 255 ∧ fracField w ≠ 0 := by
  rw [isNaN, Bool.and_eq_true, beq_iff_eq, bne_iff_ne, ← BitVec.toNat_inj, Ne, ← BitVec.toNat_inj]
  rfl

theorem f32val_eq_nan_iff (w : FloatWord) : f32val w = .nan ↔ isNaN w = true := by
  rw [isNaN_iff, f32val_eq]
  by_cases he : expField w = 255 <;> by_cases hf : fracField w = 0 <;> cases w.getLsbD 31 <;>
    simp [he, hf]

theorem f32val_eq_finite_iff (w : FloatWord) (u : Int) :
    f32val w = .finite u ↔
      expField w ≠ 255 ∧ u = withSign (w.getLsbD 31) (f32Magnitude (expField w) (fracField w)) := by
  rw [f32val_eq]
  by_cases he : expField w = 255
  · by_cases hf : fracField w = 0 <;> cases w.getLsbD 31 <;> simp [he, hf]
  · rw [if_neg he, F32.finite.injEq, eq_comm]
    exact (and_iff_right he).symm

/-! ## The rational value -/

/-- A count of units of `2^-149` as a rational. -/
def unitsRat (u : Int) : ℚ := u / 2 ^ 149

theorem unitsRat_injective : Function.Injective unitsRat := by
  intro u v h
  have hpow : (2 : ℚ) ^ 149 ≠ 0 := by positivity
  exact_mod_cast (div_left_inj' hpow).1 h

theorem unitsRat_le {u v : Int} : unitsRat u ≤ unitsRat v ↔ u ≤ v := by
  rw [unitsRat, unitsRat, div_le_div_iff_of_pos_right (by positivity), Int.cast_le]

theorem abs_unitsRat_sub (u v : Int) : |unitsRat u - unitsRat v| = unitsRat |u - v| := by
  rw [unitsRat, unitsRat, unitsRat, ← sub_div, abs_div, abs_of_pos (by positivity : (0 : ℚ) < 2 ^ 149)]
  push_cast
  rfl

theorem unitsRat_withSign (neg : Bool) (m : Nat) :
    unitsRat (withSign neg m) = (if neg then -1 else 1) * ((m : ℚ) / 2 ^ 149) := by
  cases neg <;> simp [unitsRat, withSign, neg_div]

theorem normal_eq_magnitude (e f : Nat) (he : e ≠ 0) :
    (1 + (f : ℚ) / 2 ^ 23) * (2 : ℚ) ^ ((e : ℤ) - 127) = (f32Magnitude e f : ℚ) / 2 ^ 149 := by
  obtain ⟨n, rfl⟩ := Nat.exists_eq_succ_of_ne_zero he
  have hexp : ((n.succ : ℕ) : ℤ) - 127 = (n : ℤ) - 126 := by push_cast; ring
  rw [f32Magnitude, if_neg he, hexp, zpow_sub₀ two_ne_zero, zpow_natCast, Nat.succ_sub_one]
  push_cast
  field_simp
  norm_num

theorem subnormal_eq_magnitude (f : Nat) :
    (f : ℚ) / 2 ^ 23 * (2 : ℚ) ^ (-126 : ℤ) = (f32Magnitude 0 f : ℚ) / 2 ^ 149 := by
  rw [f32Magnitude, if_pos rfl, zpow_neg]
  norm_num
  ring

theorem f32Rat_eq (w : FloatWord) :
    f32Rat w = if expField w = 255 then none
      else some (unitsRat (withSign (w.getLsbD 31) (f32Magnitude (expField w) (fracField w)))) := by
  rw [unitsRat_withSign]
  change (if expField w = 255 then none else if expField w = 0 then
      some ((if w.getLsbD 31 then -1 else 1) * ((fracField w : ℚ) / 2 ^ 23) * (2 : ℚ) ^ (-126 : ℤ))
    else some ((if w.getLsbD 31 then -1 else 1) * (1 + (fracField w : ℚ) / 2 ^ 23) *
      (2 : ℚ) ^ ((expField w : ℤ) - 127))) = _
  by_cases h0 : expField w = 0
  · rw [h0, ← subnormal_eq_magnitude, if_pos rfl, mul_assoc]
  · rw [← normal_eq_magnitude _ _ h0, if_neg h0, mul_assoc]

/-- The two readings of a finite word agree. -/
theorem f32Rat_eq_some_iff (w : FloatWord) (v : ℚ) :
    f32Rat w = some v ↔ ∃ u, f32val w = .finite u ∧ v = unitsRat u := by
  simp only [f32Rat_eq, f32val_eq_finite_iff]
  by_cases he : expField w = 255
  · simp [he]
  · simp [he, eq_comm]

/-! ## Magnitudes -/

theorem f32Magnitude_lt {e f : Nat} (hf : f < 2 ^ 23) : f32Magnitude e f < 2 ^ 23 * 2 ^ e := by
  cases e with
  | zero => simpa [f32Magnitude] using hf
  | succ e =>
    rw [f32Magnitude, if_neg e.succ_ne_zero, Nat.succ_sub_one, pow_succ' 2 e, ← Nat.mul_assoc]
    exact Nat.mul_lt_mul_of_pos_right (by omega) (Nat.two_pow_pos e)

theorem le_f32Magnitude {e : Nat} (f : Nat) (he : e ≠ 0) : 2 ^ 23 * 2 ^ (e - 1) ≤ f32Magnitude e f := by
  rw [f32Magnitude, if_neg he]
  exact Nat.mul_le_mul_right _ (Nat.le_add_right ..)

theorem f32Magnitude_lt_of_exp_lt {e e' f : Nat} (f' : Nat) (hf : f < 2 ^ 23) (he : e < e') :
    f32Magnitude e f < f32Magnitude e' f' :=
  calc f32Magnitude e f < 2 ^ 23 * 2 ^ e := f32Magnitude_lt hf
    _ ≤ 2 ^ 23 * 2 ^ (e' - 1) := Nat.mul_le_mul_left _ (Nat.pow_le_pow_right Nat.two_pos (by omega))
    _ ≤ f32Magnitude e' f' := le_f32Magnitude f' (by omega)

theorem f32Magnitude_inj {e e' f f' : Nat} (hf : f < 2 ^ 23) (hf' : f' < 2 ^ 23)
    (h : f32Magnitude e f = f32Magnitude e' f') : e = e' ∧ f = f' := by
  obtain hlt | rfl | hlt := lt_trichotomy e e'
  · exact absurd h (f32Magnitude_lt_of_exp_lt f' hf hlt).ne
  · refine ⟨rfl, ?_⟩
    unfold f32Magnitude at h
    split_ifs at h
    · exact h
    · exact Nat.add_left_cancel (Nat.mul_right_cancel (Nat.two_pow_pos _) h)
  · exact absurd h (f32Magnitude_lt_of_exp_lt f hf' hlt).ne'

/-- A magnitude of 24 or more bits above bit `i` has its unit of last place at bit `i` or above. -/
theorem two_pow_dvd_f32Magnitude {e f i : Nat} (hf : f < 2 ^ 23)
    (h : 2 ^ 23 * 2 ^ i ≤ f32Magnitude e f) : 2 ^ i ∣ f32Magnitude e f := by
  have hpow : 2 ^ i < 2 ^ e := Nat.lt_of_mul_lt_mul_left (h.trans_lt (f32Magnitude_lt hf))
  have hlt : i < e := (Nat.pow_lt_pow_iff_right Nat.one_lt_two).1 hpow
  rw [f32Magnitude, if_neg (by omega)]
  exact (Nat.pow_dvd_pow 2 (by omega)).mul_left _

/-- Only the two zeros share a value. -/
theorem eq_of_f32val_eq {w w' : FloatWord} {u : Int} (hu : u ≠ 0) (h : f32val w = .finite u)
    (h' : f32val w' = .finite u) : w = w' := by
  obtain ⟨-, hw⟩ := (f32val_eq_finite_iff ..).1 h
  obtain ⟨-, hw'⟩ := (f32val_eq_finite_iff ..).1 h'
  have hm : f32Magnitude (expField w) (fracField w) ≠ 0 := by
    intro h0
    rw [h0, withSign_zero] at hw
    exact hu hw
  obtain ⟨hsign, hmag⟩ := withSign_inj hm (hw.symm.trans hw')
  obtain ⟨hexp, hfrac⟩ := f32Magnitude_inj (fracField_lt w) (fracField_lt w') hmag
  exact floatWord_ext hsign hexp hfrac

/-! ## The word of a sign and magnitude bits -/

section

variable {bits : Nat} (neg : Bool)

theorem f32Word_toNat (h : bits < 2 ^ 31) :
    (f32Word neg bits).toNat = (if neg then 2 ^ 31 else 0) + bits := by
  rw [f32Word, BitVec.toNat_ofNat, Nat.mod_eq_of_lt]
  split <;> omega

theorem f32Word_sign (h : bits < 2 ^ 31) : (f32Word neg bits).getLsbD 31 = neg := by
  rw [BitVec.getLsbD, f32Word_toNat neg h, Nat.testBit_eq_decide_div_mod_eq]
  cases neg <;> simp <;> omega

theorem expField_f32Word (h : bits < 2 ^ 31) : expField (f32Word neg bits) = bits / 2 ^ 23 := by
  rw [expField_eq, f32Word_toNat neg h]
  split <;> omega

theorem fracField_f32Word (h : bits < 2 ^ 31) : fracField (f32Word neg bits) = bits % 2 ^ 23 := by
  rw [fracField_eq, f32Word_toNat neg h]
  split <;> omega

/-- A significand of 24 bits, or the carry out of it, beside the exponent field `e` (spec 00_scope R12). -/
theorem f32val_f32Word {e r : Nat} (he : e ≠ 0) (he' : e < 254) (hr : 2 ^ 23 ≤ r) (hr' : r ≤ 2 ^ 24) :
    f32val (f32Word neg (e * 2 ^ 23 + (r - 2 ^ 23))) = .finite (withSign neg (r * 2 ^ (e - 1))) := by
  have hbits : e * 2 ^ 23 + (r - 2 ^ 23) < 2 ^ 31 := by omega
  rw [f32val_eq_finite_iff, f32Word_sign neg hbits, expField_f32Word neg hbits, fracField_f32Word neg hbits]
  refine ⟨by omega, congrArg _ ?_⟩
  obtain hlt | rfl := hr'.lt_or_eq
  · have hexp : (e * 2 ^ 23 + (r - 2 ^ 23)) / 2 ^ 23 = e := by omega
    have hfrac : (e * 2 ^ 23 + (r - 2 ^ 23)) % 2 ^ 23 = r - 2 ^ 23 := by omega
    rw [hexp, hfrac, f32Magnitude, if_neg he, Nat.add_sub_of_le hr]
  · have hexp : (e * 2 ^ 23 + (2 ^ 24 - 2 ^ 23)) / 2 ^ 23 = e + 1 := by omega
    have hfrac : (e * 2 ^ 23 + (2 ^ 24 - 2 ^ 23)) % 2 ^ 23 = 0 := by omega
    rw [hexp, hfrac, f32Magnitude, if_neg e.succ_ne_zero, Nat.add_zero, ← Nat.pow_add, ← Nat.pow_add]
    exact congrArg (2 ^ ·) (by omega)

end

/-! ## Rounding to 24 bits -/

theorem roundEven_bounds (m j : Nat) : m / 2 ^ j ≤ roundEven m j ∧ roundEven m j ≤ m / 2 ^ j + 1 := by
  simp only [roundEven]
  split_ifs <;> omega

/-- The rounded multiple of `2^j` is off by half a unit at most, and by half a unit only if it is even. -/
theorem roundEven_error (m j : Nat) :
    2 * |(roundEven m j * 2 ^ j : Int) - m| ≤ 2 ^ j ∧
      (2 * |(roundEven m j * 2 ^ j : Int) - m| = 2 ^ j → roundEven m j % 2 = 0) := by
  have hdiv : (m : Int) = (m / 2 ^ j : Nat) * 2 ^ j + (m % 2 ^ j : Nat) := by
    exact_mod_cast (Nat.div_add_mod' m (2 ^ j)).symm
  have hcast : ((2 ^ j : Nat) : Int) = 2 ^ j := by push_cast; rfl
  have hmod : m % 2 ^ j < 2 ^ j := Nat.mod_lt _ (Nat.two_pow_pos j)
  rw [roundEven, hdiv, ← hcast]
  generalize m / 2 ^ j = q
  generalize m % 2 ^ j = r at hmod ⊢
  generalize 2 ^ j = p at hmod ⊢
  have hdown : (q * p : Int) - (q * p + r) = -r := by ring
  have hup : ((q + 1 : Nat) * p : Int) - (q * p + r) = p - r := by push_cast; ring
  obtain ⟨hq, heven⟩ | ⟨hq, heven⟩ :
    (q + q % 2 = q ∧ q % 2 = 0) ∨ (q + q % 2 = q + 1 ∧ (q + 1) % 2 = 0) := by omega
  all_goals
    simp only [hq]
    split_ifs <;> simp only [hdown, hup, abs_eq_max_neg] <;> omega

/-- No multiple of `2^j` is nearer to `m` than the rounded one, and one as near only if that is even. -/
theorem roundEven_nearest (m j : Nat) (k : Int) :
    |(roundEven m j * 2 ^ j : Int) - m| ≤ |k * 2 ^ j - m| ∧
      (k ≠ roundEven m j → |k * 2 ^ j - m| = |(roundEven m j * 2 ^ j : Int) - m| →
        roundEven m j % 2 = 0) := by
  obtain ⟨herr, heven⟩ := roundEven_error m j
  generalize roundEven m j = r at *
  obtain rfl | hne := eq_or_ne k r
  · exact ⟨le_rfl, fun h => absurd rfl h⟩
  · have hapart : (2 : Int) ^ j ≤ |k * 2 ^ j - r * 2 ^ j| := by
      rw [← sub_mul, abs_mul, abs_of_pos (pow_pos (two_pos (α := Int)) j)]
      exact le_mul_of_one_le_left (by positivity) (Int.one_le_abs (sub_ne_zero.2 hne))
    have htriangle := abs_sub_le (k * 2 ^ j : Int) m (r * 2 ^ j)
    rw [abs_sub_comm (m : Int)] at htriangle
    exact ⟨by omega, fun _ h => heven (by omega)⟩

/-- The 24-bit significand of `m`, or the carry out of it (spec 00_scope R12). -/
def significand (m : Nat) : Nat :=
  if m < 2 ^ 24 then m * 2 ^ (23 - m.log2) else roundEven m (m.log2 - 23)

/-- `m` rounded to 24 significant bits. -/
def round24 (m : Nat) : Nat := if m < 2 ^ 24 then m else roundEven m (m.log2 - 23) * 2 ^ (m.log2 - 23)

theorem round24_of_lt {m : Nat} (h : m < 2 ^ 24) : round24 m = m := if_pos h

theorem round24_of_le {m : Nat} (h : 2 ^ 24 ≤ m) :
    round24 m = significand m * 2 ^ (m.log2 - 23) := by
  rw [round24, significand, if_neg h.not_gt, if_neg h.not_gt]

theorem log2_lt_of_lt {m n : Nat} (hm : m ≠ 0) (h : m < 2 ^ n) : m.log2 < n :=
  (Nat.log2_lt hm).2 h

theorem le_log2_of_le {m n : Nat} (h : 2 ^ n ≤ m) : n ≤ m.log2 :=
  (Nat.le_log2 (Nat.ne_of_gt (Nat.lt_of_lt_of_le (Nat.two_pow_pos n) h))).2 h

theorem significand_bounds {m : Nat} (hm : m ≠ 0) : 2 ^ 23 ≤ significand m ∧ significand m ≤ 2 ^ 24 := by
  have hle : 2 ^ m.log2 ≤ m := Nat.log2_self_le hm
  have hlt : m < 2 ^ (m.log2 + 1) := Nat.lt_log2_self
  unfold significand
  split_ifs with h
  · have hlog := log2_lt_of_lt hm h
    have hpow : 2 ^ 23 = 2 ^ m.log2 * 2 ^ (23 - m.log2) := by rw [← pow_add]; congr 1; omega
    have hpow' : 2 ^ 24 = 2 ^ (m.log2 + 1) * 2 ^ (23 - m.log2) := by rw [← pow_add]; congr 1; omega
    exact ⟨hpow ▸ Nat.mul_le_mul_right _ hle, hpow' ▸ Nat.mul_le_mul_right _ hlt.le⟩
  · have hlog := le_log2_of_le (not_lt.1 h)
    have hpow : 2 ^ m.log2 = 2 ^ 23 * 2 ^ (m.log2 - 23) := by rw [← pow_add]; congr 1; omega
    have hpow' : 2 ^ (m.log2 + 1) = 2 ^ 24 * 2 ^ (m.log2 - 23) := by rw [← pow_add]; congr 1; omega
    obtain ⟨hdown, hup⟩ := roundEven_bounds m (m.log2 - 23)
    exact ⟨((Nat.le_div_iff_mul_le (Nat.two_pow_pos _)).2 (hpow ▸ hle)).trans hdown,
      hup.trans ((Nat.div_lt_iff_lt_mul (Nat.two_pow_pos _)).2 (hpow' ▸ hlt))⟩

theorem f32encRne_eq (neg : Bool) {m : Nat} (k : Nat) (hm : m ≠ 0) :
    f32encRne neg m k = f32Word neg ((m.log2 + 127 - k) * 2 ^ 23 + (significand m - 2 ^ 23)) := by
  unfold f32encRne significand
  split_ifs
  · rw [f32encExact, if_neg hm]
  · rfl

theorem f32encRne_zero (neg : Bool) (k : Nat) : f32encRne neg 0 k = 0#32 := rfl

theorem significand_mul (m k : Nat) (hm : m ≠ 0) (hk : k ≤ 126) :
    significand m * 2 ^ (m.log2 + 126 - k) = round24 m * 2 ^ (149 - k) := by
  unfold significand round24
  split_ifs with h
  · have hlog := log2_lt_of_lt hm h
    rw [mul_assoc, ← pow_add]
    exact congrArg (m * 2 ^ ·) (by omega)
  · have hlog := le_log2_of_le (not_lt.1 h)
    rw [mul_assoc, ← pow_add]
    exact congrArg (roundEven m (m.log2 - 23) * 2 ^ ·) (by omega)

/-- The word of `m / 2^k` holds `m` rounded to 24 bits. -/
theorem f32val_f32encRne (neg : Bool) {m k : Nat} (hm : m ≤ 2 ^ 31) (hk : k ≤ 31) :
    f32val (f32encRne neg m k) = .finite (withSign neg (round24 m * 2 ^ (149 - k))) := by
  obtain rfl | h0 := eq_or_ne m 0
  · rw [f32encRne_zero, round24_of_lt (by decide), Nat.zero_mul, withSign_zero]
    decide
  · have hlog : m.log2 < 32 := log2_lt_of_lt h0 (by omega)
    obtain ⟨hlow, hhigh⟩ := significand_bounds h0
    rw [f32encRne_eq neg k h0, f32val_f32Word neg (by omega) (by omega) hlow hhigh,
      ← significand_mul m k h0 (by omega)]
    have hexp : m.log2 + 127 - k - 1 = m.log2 + 126 - k := by omega
    rw [hexp]

/-- The significand ends with the last bit of the fraction. -/
theorem f32encRne_even (neg : Bool) {m k : Nat} (hm : m ≤ 2 ^ 31) (hk : k ≤ 31)
    (h : significand m % 2 = 0) : (f32encRne neg m k).getLsbD 0 = false := by
  obtain rfl | h0 := eq_or_ne m 0
  · exact BitVec.getLsbD_zero
  · have hlog : m.log2 < 32 := log2_lt_of_lt h0 (by omega)
    obtain ⟨hlow, hhigh⟩ := significand_bounds h0
    have hbits : (m.log2 + 127 - k) * 2 ^ 23 + (significand m - 2 ^ 23) < 2 ^ 31 := by omega
    rw [BitVec.getLsbD, f32encRne_eq neg k h0, f32Word_toNat neg hbits, Nat.testBit_zero,
      decide_eq_false_iff_not]
    split <;> omega

theorem expField_f32encRne (neg : Bool) {m k : Nat} (h0 : m ≠ 0) (hm : m ≤ 2 ^ 31) (hk : k ≤ 31) :
    0 < expField (f32encRne neg m k) ∧ expField (f32encRne neg m k) < 255 := by
  have hlog : m.log2 < 32 := log2_lt_of_lt h0 (by omega)
  obtain ⟨hlow, hhigh⟩ := significand_bounds h0
  have hbits : (m.log2 + 127 - k) * 2 ^ 23 + (significand m - 2 ^ 23) < 2 ^ 31 := by omega
  rw [f32encRne_eq neg k h0, expField_f32Word neg hbits]
  omega

end Sys2Proof.Machine

/-! # Clip and convert: the inverse conversion (spec 41_clip_convert R158) -/

namespace Sys2Proof.Machine

/-! ## The value of the float -/

theorem widthDepth_range (wc : Width) : 8 ≤ widthDepth wc ∧ widthDepth wc ≤ 32 := by
  cases wc <;> decide

theorem widthDepth_le_24 {wc : Width} (h : wc ≠ .w32) : widthDepth wc ≤ 24 := by
  cases wc with
  | w32 => exact absurd rfl h
  | _ => decide

theorem two_pow_depth (wc : Width) : 2 ^ widthDepth wc = 2 * 2 ^ (widthDepth wc - 1) := by
  rw [← pow_succ', Nat.sub_add_cancel (by have := widthDepth_range wc; omega)]

theorem two_pow_depth_le (wc : Width) : 2 ^ (widthDepth wc - 1) ≤ 2 ^ 31 :=
  Nat.pow_le_pow_right Nat.two_pos (by have := widthDepth_range wc; omega)

/-- The signed value of a sample word (spec 41_clip_convert R158). -/
def sampleSigned (wc : Width) (u : Nat) : Int := signedOf (widthDepth wc) u

section

variable {wc : Width} {u : Nat}

theorem sampleSigned_eq (wc : Width) (u : Nat) :
    sampleSigned wc u = if u < 2 ^ (widthDepth wc - 1) then (u : Int) else u - 2 ^ widthDepth wc := rfl

theorem sampleSigned_natAbs_le (hu : u < 2 ^ widthDepth wc) :
    (sampleSigned wc u).natAbs ≤ 2 ^ (widthDepth wc - 1) := by
  have hpow := two_pow_depth wc
  have hcast : ((2 ^ widthDepth wc : Nat) : Int) = 2 ^ widthDepth wc := by push_cast; rfl
  rw [sampleSigned_eq, ← hcast]
  split_ifs <;> omega

theorem sampleSigned_eq_zero_iff (hu : u < 2 ^ widthDepth wc) : sampleSigned wc u = 0 ↔ u = 0 := by
  have hpow := two_pow_depth wc
  have hcast : ((2 ^ widthDepth wc : Nat) : Int) = 2 ^ widthDepth wc := by push_cast; rfl
  rw [sampleSigned_eq, ← hcast]
  split_ifs <;> omega

/-- Below 2^24 nothing is rounded, so one encoding covers the four depths. -/
theorem tofloat_eq (hu : u < 2 ^ widthDepth wc) :
    tofloat wc u = f32encRne (decide (sampleSigned wc u < 0)) (sampleSigned wc u).natAbs
      (widthDepth wc - 1) := by
  cases wc with
  | w32 => rfl
  | _ =>
    have habs := sampleSigned_natAbs_le hu
    exact (if_pos (habs.trans_lt (by decide))).symm

/-- A whole number rounded to 24 significant bits. -/
def rounded24 (s : Int) : Int := withSign (decide (s < 0)) (round24 s.natAbs)

theorem rounded24_of_lt {s : Int} (h : s.natAbs < 2 ^ 24) : rounded24 s = s := by
  rw [rounded24, round24_of_lt h, withSign_natAbs]

theorem rounded24_neg (s : Int) : rounded24 (-s) = -rounded24 s := by
  obtain h | rfl | h := lt_trichotomy s 0
  · simp [rounded24, withSign, h, h.le]
  · rfl
  · simp [rounded24, withSign, h, h.le]

theorem f32val_tofloat (hu : u < 2 ^ widthDepth wc) :
    f32val (tofloat wc u) = .finite (rounded24 (sampleSigned wc u) * 2 ^ (149 - (widthDepth wc - 1))) := by
  have hdepth := widthDepth_range wc
  have habs := (sampleSigned_natAbs_le hu).trans (two_pow_depth_le wc)
  rw [tofloat_eq hu, f32val_f32encRne _ habs (by omega), withSign_mul]
  push_cast
  rfl

theorem unitsRat_scale (s : Int) {k : Nat} (hk : k ≤ 149) :
    unitsRat (s * 2 ^ (149 - k)) = (s : ℚ) / 2 ^ k := by
  have hpow : (2 : ℚ) ^ 149 = 2 ^ k * 2 ^ (149 - k) := by rw [← pow_add, Nat.add_sub_cancel' hk]
  rw [unitsRat, hpow]
  push_cast
  exact mul_div_mul_right _ _ (by positivity)

theorem f32Rat_tofloat (hu : u < 2 ^ widthDepth wc) :
    f32Rat (tofloat wc u) =
      some ((rounded24 (sampleSigned wc u) : ℚ) / 2 ^ (widthDepth wc - 1)) := by
  have hdepth := widthDepth_range wc
  exact (f32Rat_eq_some_iff ..).2 ⟨_, f32val_tofloat hu, (unitsRat_scale _ (by omega)).symm⟩

end

/-- Settles O21: below 2^24 the encoding rounds nothing (`f32Rat_tofloat`, `rounded24_of_lt`), and a non-zero
word has a normal exponent (`expField_f32encRne`). -/
theorem inverseIsExactUpTo24Bits : Obligations.InverseIsExactUpTo24Bits := by
  intro wc u hu
  have hdepth := widthDepth_range wc
  have habs := sampleSigned_natAbs_le hu
  have hnormal (h0 : u ≠ 0) : 0 < expField (tofloat wc u) ∧ expField (tofloat wc u) < 255 := by
    rw [tofloat_eq hu]
    refine expField_f32encRne _ ?_ (habs.trans (two_pow_depth_le wc)) (by omega)
    rwa [Int.natAbs_ne_zero, Ne, sampleSigned_eq_zero_iff hu]
  refine ⟨fun hwc => ?_, ⟨fun h0 => ?_, fun hzero => ?_⟩, hnormal⟩
  · have hdepth24 := widthDepth_le_24 hwc
    have hlt : (sampleSigned wc u).natAbs < 2 ^ 24 :=
      habs.trans_lt (Nat.pow_lt_pow_right Nat.one_lt_two (by omega))
    rw [f32Rat_tofloat hu, rounded24_of_lt hlt, sampleSigned_eq]
    push_cast
    rfl
  · subst h0
    cases wc <;> rfl
  · by_contra h0
    have hpos := (hnormal h0).1
    rw [hzero] at hpos
    exact absurd hpos (by decide)

/-! ## Rounding at 32 bits -/

theorem roundEven_mul_two_pow (m j a : Nat) : roundEven (m * 2 ^ a) (j + a) = roundEven m j := by
  have hpos : 0 < 2 ^ a := Nat.two_pow_pos a
  have hlow (x y : Nat) : 2 * (x * 2 ^ a) < y * 2 ^ a ↔ 2 * x < y := by
    rw [← mul_assoc, Nat.mul_lt_mul_right hpos]
  have hhigh (x y : Nat) : y * 2 ^ a < 2 * (x * 2 ^ a) ↔ y < 2 * x := by
    rw [← mul_assoc, Nat.mul_lt_mul_right hpos]
  simp only [roundEven, pow_add, Nat.mul_div_mul_right _ _ hpos, Nat.mul_mod_mul_right, hlow, hhigh]

/-- The value of a finite word whose magnitude needs bit `i + 23` is a multiple of `2^i`. -/
theorem two_pow_dvd_of_f32val {w : FloatWord} {t : Int} {i : Nat} (h : f32val w = .finite t)
    (ht : 2 ^ 23 * 2 ^ i ≤ t.natAbs) : 2 ^ i ∣ t := by
  obtain ⟨-, rfl⟩ := (f32val_eq_finite_iff ..).1 h
  rw [natAbs_withSign] at ht
  have hdvd := two_pow_dvd_f32Magnitude (fracField_lt w) ht
  rw [← Int.natAbs_dvd_natAbs, natAbs_withSign, Int.natAbs_pow]
  exact hdvd

/-- Where `M` is `2^23 * 2^i` or more, no value that is a multiple of `2^i` from there up is nearer to `M` than
the rounded one; a value below is farther than `2^23 * 2^i` itself. -/
theorem roundEven_nearest_float {M i : Nat} (hM : 2 ^ 23 * 2 ^ i ≤ M) {t : Int}
    (ht : 2 ^ 23 * 2 ^ i ≤ t → 2 ^ i ∣ t) :
    |(roundEven M i * 2 ^ i : Int) - M| ≤ |t - M| ∧
      (t ≠ roundEven M i * 2 ^ i → |t - M| = |(roundEven M i * 2 ^ i : Int) - M| →
        roundEven M i % 2 = 0) := by
  obtain hle | hlt := le_or_gt (2 ^ 23 * 2 ^ i) t
  · obtain ⟨k, rfl⟩ := ht hle
    rw [mul_comm _ k]
    obtain ⟨hnear, htie⟩ := roundEven_nearest M i k
    exact ⟨hnear, fun hne => htie fun hk => hne (hk ▸ rfl)⟩
  · obtain ⟨hnear, -⟩ := roundEven_nearest M i (2 ^ 23)
    have hM' : (2 ^ 23 * 2 ^ i : Int) ≤ M := by exact_mod_cast hM
    rw [abs_of_nonpos (sub_nonpos.2 hM')] at hnear
    rw [abs_of_neg (sub_neg.2 (hlt.trans_le hM'))]
    exact ⟨by omega, fun _ h => by omega⟩

/-- Scaled by `2^a`, a whole number `n` of 25 or more bits rounds to the nearest float. -/
theorem round24_nearest {n : Nat} (a : Nat) (hn : 2 ^ 24 ≤ n) {t : Int}
    (ht : ∀ i, 2 ^ 23 * 2 ^ i ≤ t.natAbs → 2 ^ i ∣ t) :
    |((round24 n : Int) - n) * 2 ^ a| ≤ |t - n * 2 ^ a| ∧
      (t ≠ round24 n * 2 ^ a → |t - n * 2 ^ a| = |((round24 n : Int) - n) * 2 ^ a| →
        significand n % 2 = 0) := by
  have hlog := le_log2_of_le hn
  have hlow : 2 ^ 23 * 2 ^ (n.log2 - 23 + a) ≤ n * 2 ^ a := by
    rw [pow_add, ← mul_assoc, ← pow_add, Nat.add_sub_cancel' (by omega)]
    exact Nat.mul_le_mul_right _ (Nat.log2_self_le (by omega))
  have hround : roundEven (n * 2 ^ a) (n.log2 - 23 + a) = significand n := by
    rw [roundEven_mul_two_pow, significand, if_neg hn.not_gt]
  have hvalue : (significand n * 2 ^ (n.log2 - 23 + a) : Int) = round24 n * 2 ^ a := by
    rw [round24_of_le hn, pow_add]
    push_cast
    ring
  have hnearest := roundEven_nearest_float (t := t) hlow fun h =>
    ht _ (by zify; exact h.trans (le_abs_self t))
  rw [hround, hvalue] at hnearest
  push_cast at hnearest
  rwa [sub_mul]

/-- A whole number rounded to 24 bits is the nearest float, on either side of 0; a smaller one is exact. -/
theorem rounded24_nearest (s : Int) (a : Nat) {t : Int}
    (ht : ∀ i, 2 ^ 23 * 2 ^ i ≤ t.natAbs → 2 ^ i ∣ t) :
    |(rounded24 s - s) * 2 ^ a| ≤ |t - s * 2 ^ a| ∧
      (t ≠ rounded24 s * 2 ^ a → |t - s * 2 ^ a| = |(rounded24 s - s) * 2 ^ a| →
        significand s.natAbs % 2 = 0) := by
  obtain hlt | hn := lt_or_ge s.natAbs (2 ^ 24)
  · rw [rounded24_of_lt hlt, sub_self, zero_mul, abs_zero]
    exact ⟨abs_nonneg _, fun hne h => absurd (sub_eq_zero.1 (abs_eq_zero.1 h)) hne⟩
  · obtain ⟨n, rfl | rfl⟩ := s.eq_nat_or_neg
    · exact round24_nearest a hn ht
    · rw [Int.natAbs_neg] at hn ⊢
      have hnearest := round24_nearest (t := -t) a hn (by simpa only [Int.natAbs_neg, Int.dvd_neg] using ht)
      have hvalue : rounded24 (-n) = -(round24 n : Int) := rounded24_neg n
      have herror : (rounded24 (-n) - -n) * 2 ^ a = -(((round24 n : Int) - n) * 2 ^ a) := by
        rw [hvalue]
        ring
      have hother : t - -n * 2 ^ a = -(-t - n * 2 ^ a) := by ring
      rw [herror, hother, abs_neg, abs_neg, hvalue, neg_mul, Ne, ← neg_eq_iff_eq_neg]
      exact hnearest

/-- Settles O22: in units of `2^-149` the sample is a whole number times `2^118` (`rounded24_nearest`), and
the fraction ends with the significand's last bit. -/
theorem inverseRoundsToNearestEvenAt32Bits : Obligations.InverseRoundsToNearestEvenAt32Bits := by
  intro u hu x
  have hx : x = unitsRat (sampleSigned .w32 u * 2 ^ 118) := by
    rw [unitsRat_scale (k := 31) _ (by decide), sampleSigned_eq]
    push_cast
    rfl
  refine ⟨_, (f32Rat_eq_some_iff ..).2 ⟨_, f32val_tofloat (wc := .w32) hu, rfl⟩, fun w q' hq' => ?_⟩
  obtain ⟨t, ht, rfl⟩ := (f32Rat_eq_some_iff ..).1 hq'
  have habs := sampleSigned_natAbs_le (wc := .w32) hu
  obtain ⟨hnear, htie⟩ := rounded24_nearest (sampleSigned .w32 u) 118 fun i => two_pow_dvd_of_f32val ht
  rw [sub_mul] at hnear htie
  rw [hx, abs_unitsRat_sub, abs_unitsRat_sub, unitsRat_le, unitsRat_injective.ne_iff,
    unitsRat_injective.eq_iff]
  refine ⟨hnear, fun hne h => ?_⟩
  rw [tofloat_eq (wc := .w32) hu]
  exact f32encRne_even _ habs (by decide) (htie hne h)

end Sys2Proof.Machine

/-! # Clip and convert: the forward conversion (spec 41_clip_convert R142) -/

namespace Sys2Proof.Machine

/-! ## The sample of a clipped value -/

theorem lowerClip_le_upperClip (wc : Width) : lowerClip ≤ upperClip wc := by
  cases wc <;> decide

theorem clipped_finite (wc : Width) (u : Int) :
    clipped wc (.finite u) = some (max lowerClip (min (upperClip wc) u)) := by
  have hle := lowerClip_le_upperClip wc
  simp only [clipped, Option.some.injEq]
  split_ifs <;> omega

/-- The signed sample of a clipped value: at 24 bits the 32-bit one without its low byte (spec 41_clip_convert
R145). -/
def sampleInt (wc : Width) (c : Int) : Int :=
  match wc with
  | .w24 => scaled .w24 c / 2 ^ 8
  | _ => scaled wc c

theorem clipconv_eq (wc : Width) (w : FloatWord) :
    clipconv wc w = (clipped wc (f32val w)).map fun c => tcNat (widthDepth wc) (sampleInt wc c) := by
  unfold clipconv
  cases clipped wc (f32val w) with
  | none => rfl
  | some c =>
    cases wc with
    | w24 =>
      simp only [Option.map_some, Option.some.injEq, tcNat, sampleInt, widthDepth]
      omega
    | _ => rfl

theorem clipconv_finite (wc : Width) {w : FloatWord} {u : Int} (h : f32val w = .finite u) :
    clipconv wc w =
      some (tcNat (widthDepth wc) (sampleInt wc (max lowerClip (min (upperClip wc) u)))) := by
  rw [clipconv_eq, h, clipped_finite]
  rfl

theorem clipconv_eq_none_iff (wc : Width) (w : FloatWord) : clipconv wc w = none ↔ isNaN w = true := by
  rw [← f32val_eq_nan_iff, clipconv_eq, Option.map_eq_none_iff]
  cases f32val w <;> simp [clipped]

theorem tcNat_lt (d : Nat) (x : Int) : tcNat d x < 2 ^ d := by
  have hpos : (0 : Int) < 2 ^ d := pow_pos two_pos d
  have hlt := Int.emod_lt_of_pos x hpos
  have hcast : ((2 ^ d : Nat) : Int) = 2 ^ d := by push_cast; rfl
  rw [tcNat]
  omega

theorem clipconv_lt {wc : Width} {w : FloatWord} {x : Nat} (h : clipconv wc w = some x) :
    x < 2 ^ widthDepth wc := by
  rw [clipconv_eq, Option.map_eq_some_iff] at h
  obtain ⟨c, -, rfl⟩ := h
  exact tcNat_lt ..

/-! ## Saturation -/

theorem tcNat_upperClip (wc : Width) :
    tcNat (widthDepth wc) (sampleInt wc (upperClip wc)) = 2 ^ (widthDepth wc - 1) - 1 := by
  cases wc <;> decide

theorem tcNat_lowerClip (wc : Width) :
    tcNat (widthDepth wc) (sampleInt wc lowerClip) = 2 ^ (widthDepth wc - 1) := by
  cases wc <;> decide

theorem clipconv_posInf (wc : Width) : clipconv wc 0x7F800000#32 = some (2 ^ (widthDepth wc - 1) - 1) := by
  rw [clipconv_eq, show f32val 0x7F800000#32 = .posInf by decide, ← tcNat_upperClip]
  rfl

theorem clipconv_negInf (wc : Width) : clipconv wc 0xFF800000#32 = some (2 ^ (widthDepth wc - 1)) := by
  rw [clipconv_eq, show f32val 0xFF800000#32 = .negInf by decide, ← tcNat_lowerClip]
  rfl

theorem upperRat_eq (wc : Width) : upperRat wc = unitsRat (upperClip wc) := by
  cases wc <;> norm_num [upperRat, unitsRat, upperClip, widthDepth]

theorem unitsRat_lowerClip : unitsRat lowerClip = -1 := by
  norm_num [unitsRat, lowerClip]

/-- Settles O20: the clip gives the bound, and the bound gives the extreme word. -/
theorem saturationGivesExtremeIntegers : Obligations.SaturationGivesExtremeIntegers := by
  refine fun wc => ⟨fun w v hv => ?_, clipconv_posInf wc, clipconv_negInf wc⟩
  obtain ⟨u, hu, rfl⟩ := (f32Rat_eq_some_iff ..).1 hv
  rw [clipconv_finite wc hu, upperRat_eq, ← unitsRat_lowerClip, unitsRat_le, unitsRat_le]
  constructor
  · intro h
    rw [min_eq_left h, max_eq_right (lowerClip_le_upperClip wc), tcNat_upperClip]
  · intro h
    rw [max_eq_left ((min_le_right ..).trans h), tcNat_lowerClip]

/-! ## The spec's arithmetic on rationals -/

theorem clipRat_unitsRat (wc : Width) (u : Int) :
    clipRat wc (unitsRat u) = unitsRat (max lowerClip (min (upperClip wc) u)) := by
  have hle := lowerClip_le_upperClip wc
  simp only [clipRat, upperRat_eq, ← unitsRat_lowerClip, ← not_le, unitsRat_le]
  split_ifs <;> congr 1 <;> omega

/-- Truncation toward zero, as floors. -/
theorem tdiv_units (n : Int) : n.tdiv (2 ^ 149) = if 0 ≤ n then n / 2 ^ 149 else -(-n / 2 ^ 149) := by
  split_ifs with h
  · exact Int.tdiv_eq_ediv_of_nonneg h
  · rw [← Int.tdiv_eq_ediv_of_nonneg (by omega : 0 ≤ -n), Int.neg_tdiv, neg_neg]

theorem floor_unitsRat (n : Int) : ⌊unitsRat n⌋ = n / 2 ^ 149 := by
  have h := Rat.floor_intCast_div_natCast n (2 ^ 149)
  push_cast at h
  exact h

theorem unitsRat_neg (n : Int) : unitsRat (-n) = -unitsRat n := by
  rw [unitsRat, unitsRat, Int.cast_neg, neg_div]

theorem truncRat_unitsRat (n : Int) : truncRat (unitsRat n) = n.tdiv (2 ^ 149) := by
  have hsign : 0 ≤ unitsRat n ↔ 0 ≤ n := by
    have h := unitsRat_le (u := 0) (v := n)
    rwa [unitsRat, Int.cast_zero, zero_div] at h
  rw [truncRat, tdiv_units, ← floor_unitsRat, ← floor_unitsRat, unitsRat_neg, Int.floor_neg, neg_neg]
  simp only [hsign]

theorem truncRat_scaled (wc : Width) (c : Int) :
    truncRat (unitsRat c * 2 ^ widthScaleExp wc) = scaled wc c := by
  have hmul : unitsRat c * 2 ^ widthScaleExp wc = unitsRat (c * 2 ^ widthScaleExp wc) := by
    rw [unitsRat, unitsRat, div_mul_eq_mul_div]
    push_cast
    rfl
  rw [hmul, truncRat_unitsRat, scaled]

/-- Settles O19: clip and truncation commute with reading a count of units as a rational (`clipRat_unitsRat`,
`truncRat_scaled`). -/
theorem clipConvertIsExactArithmetic : Obligations.ClipConvertIsExactArithmetic := by
  refine fun wc w => ⟨(clipconv_eq_none_iff wc w).2, fun h => h ▸ clipconv_posInf wc,
    fun h => h ▸ clipconv_negInf wc, fun v hv => ?_⟩
  obtain ⟨u, hu, rfl⟩ := (f32Rat_eq_some_iff ..).1 hv
  rw [clipRat_unitsRat, clipconv, hu, clipped_finite]
  cases wc <;> simp only [reduceCtorEq, if_true, if_false, tcNat, ← truncRat_scaled] <;> rfl

end Sys2Proof.Machine

/-! # Clip and convert: there and back (spec 41_clip_convert R171) -/

namespace Sys2Proof.Machine

/-- In units of `2^-149`, times the scale: a value in `[-1, 1]` and its sample are one step apart at most. The clip
loses a step at most, and then truncation nothing; below the clip, truncation loses less than a step, and at 24
bits it moves up by less than `2^-8` of a step before the low byte is dropped downward. -/
theorem sampleInt_error (wc : Width) {u : Int} (hlow : -2 ^ 149 ≤ u) (hhigh : u ≤ 2 ^ 149) :
    |sampleInt wc (min (upperClip wc) u) * 2 ^ 149 - u * 2 ^ (widthDepth wc - 1)| ≤ 2 ^ 149 := by
  rw [abs_le]
  cases wc <;>
    simp only [sampleInt, scaled, tdiv_units, upperClip, widthDepth, widthScaleExp, Nat.reduceSub] <;>
    split_ifs <;> omega

/-- The sample of a value in `[-1, 1]` is a `d`-bit signed number. -/
theorem sampleInt_range (wc : Width) {u : Int} (hlow : -2 ^ 149 ≤ u) :
    -2 ^ (widthDepth wc - 1) ≤ sampleInt wc (min (upperClip wc) u) ∧
      sampleInt wc (min (upperClip wc) u) < 2 ^ (widthDepth wc - 1) := by
  cases wc <;>
    simp only [sampleInt, scaled, tdiv_units, upperClip, widthDepth, widthScaleExp, Nat.reduceSub] <;>
    split_ifs <;> omega

/-- The two's-complement word reads back as the number. -/
theorem sampleSigned_tcNat (wc : Width) {y : Int} (hlow : -2 ^ (widthDepth wc - 1) ≤ y)
    (hhigh : y < 2 ^ (widthDepth wc - 1)) : sampleSigned wc (tcNat (widthDepth wc) y) = y := by
  rw [sampleSigned_eq, tcNat]
  cases wc <;> simp only [widthDepth, Nat.reduceSub] at * <;> split_ifs <;> omega

/-- Converting and back: the float is the sample, rounded to 24 bits. -/
theorem clipconv_tofloat (wc : Width) {w : FloatWord} {u : Int} (h : f32val w = .finite u)
    (hlow : -2 ^ 149 ≤ u) :
    ∃ x, clipconv wc w = some x ∧ x < 2 ^ widthDepth wc ∧
      sampleSigned wc x = sampleInt wc (min (upperClip wc) u) := by
  have hclip : max lowerClip (min (upperClip wc) u) = min (upperClip wc) u :=
    max_eq_right (le_min (lowerClip_le_upperClip wc) hlow)
  obtain ⟨hge, hlt⟩ := sampleInt_range wc hlow
  exact ⟨_, hclip ▸ clipconv_finite wc h, tcNat_lt .., sampleSigned_tcNat wc hge hlt⟩

/-- At 32 bits a value that is a multiple of the step `2^-31` and does not clip is its own sample. -/
theorem sampleInt_of_dvd {u : Int} (hdvd : 2 ^ 118 ∣ u) (hhigh : u < 2 ^ 149) :
    sampleInt .w32 (min (upperClip .w32) u) * 2 ^ 118 = u := by
  simp only [sampleInt, scaled, tdiv_units, upperClip, widthDepth, widthScaleExp, Nat.reduceSub]
  split_ifs <;> omega

/-- A whole number times `2^a` that is the value of a float is not rounded. -/
theorem rounded24_mul_of_float {w : FloatWord} {s : Int} {a : Nat} (h : f32val w = .finite (s * 2 ^ a)) :
    rounded24 s = s := by
  obtain ⟨hnear, -⟩ := rounded24_nearest s a fun i => two_pow_dvd_of_f32val h
  rw [sub_self, abs_zero, abs_nonpos_iff, mul_eq_zero_iff_right (by positivity)] at hnear
  exact sub_eq_zero.1 hnear

/-- From magnitude `2^-8` up every float is a multiple of the step at 32 bits; 1 clips to the greatest
integer, which rounds back to 1. -/
theorem roundTrip_exact {w : FloatWord} {u : Int} (h : f32val w = .finite u) (hlow : -2 ^ 149 ≤ u)
    (hhigh : u ≤ 2 ^ 149) (hmag : 2 ^ 141 ≤ u.natAbs) :
    ∃ x, clipconv .w32 w = some x ∧ tofloat .w32 x = w := by
  have hu : u ≠ 0 := by omega
  obtain rfl | hlt := hhigh.eq_or_lt
  · obtain rfl := eq_of_f32val_eq hu h (show f32val 0x3F800000#32 = .finite (2 ^ 149) by decide)
    exact ⟨2 ^ 31 - 1, by decide, by decide⟩
  · obtain ⟨x, hx, hxlt, hsigned⟩ := clipconv_tofloat .w32 h hlow
    have hvalue := sampleInt_of_dvd (two_pow_dvd_of_f32val (i := 118) h hmag) hlt
    rw [← hsigned] at hvalue
    refine ⟨x, hx, eq_of_f32val_eq hu ?_ h⟩
    rw [f32val_tofloat (wc := .w32) hxlt, rounded24_mul_of_float (a := 118) (hvalue.symm ▸ h)]
    exact congrArg F32.finite hvalue

/-- A sample that fits in 24 bits comes back exactly, so the only error is that of truncation. -/
theorem roundTrip_close (wc : Width) {w : FloatWord} {u : Int} (h : f32val w = .finite u)
    (hlow : -2 ^ 149 ≤ u) (hhigh : u ≤ 2 ^ 149)
    (hfits : (sampleInt wc (min (upperClip wc) u)).natAbs < 2 ^ 24) :
    ∃ x q, clipconv wc w = some x ∧ f32Rat (tofloat wc x) = some q ∧
      |q - unitsRat u| ≤ 2 / 2 ^ widthDepth wc := by
  obtain ⟨x, hx, hxlt, hsigned⟩ := clipconv_tofloat wc h hlow
  have herror := sampleInt_error wc hlow hhigh
  refine ⟨x, _, hx, f32Rat_tofloat hxlt, ?_⟩
  rw [hsigned, rounded24_of_lt hfits]
  generalize sampleInt wc (min (upperClip wc) u) = y at herror
  have hstep : (2 : ℚ) / 2 ^ widthDepth wc = 2 ^ 149 / (2 ^ (widthDepth wc - 1) * 2 ^ 149) := by
    cases wc <;> norm_num [widthDepth]
  have hdiff : (y : ℚ) / 2 ^ (widthDepth wc - 1) - unitsRat u =
      (y * 2 ^ 149 - u * 2 ^ (widthDepth wc - 1)) / (2 ^ (widthDepth wc - 1) * 2 ^ 149) := by
    rw [unitsRat, div_sub_div _ _ (by positivity) (by positivity), mul_comm (2 ^ _) (u : ℚ)]
  rw [hstep, hdiff, abs_div, abs_of_pos (by positivity : (0 : ℚ) < 2 ^ (widthDepth wc - 1) * 2 ^ 149)]
  gcongr
  exact_mod_cast herror

/-- A sample of more than 24 bits is a 32-bit one, of a value of magnitude `2^-8` or more. -/
theorem fits_or_exact (wc : Width) {u : Int} (hlow : -2 ^ 149 ≤ u) (hhigh : u ≤ 2 ^ 149) :
    (sampleInt wc (min (upperClip wc) u)).natAbs < 2 ^ 24 ∨ wc = .w32 ∧ 2 ^ 141 ≤ u.natAbs := by
  have herror := sampleInt_error wc hlow hhigh
  have hrange := sampleInt_range wc hlow
  rw [abs_le] at herror
  generalize sampleInt wc (min (upperClip wc) u) = y at *
  cases wc <;>
    simp only [widthDepth, Nat.reduceSub, reduceCtorEq, true_and, false_and, or_false] at * <;> omega

/-- Settles O23: a sample that fits in 24 bits is off by truncation alone (`roundTrip_close`), and a wider one
is the float's own value (`roundTrip_exact`). -/
theorem conversionRoundTripIsClose : Obligations.ConversionRoundTripIsClose := by
  intro wc w v hv hlow hhigh
  obtain ⟨u, hu, rfl⟩ := (f32Rat_eq_some_iff ..).1 hv
  have hone : unitsRat (2 ^ 149) = 1 := by norm_num [unitsRat]
  rw [← unitsRat_lowerClip, unitsRat_le] at hlow
  rw [← hone, unitsRat_le] at hhigh
  constructor
  · obtain hfits | ⟨rfl, hmag⟩ := fits_or_exact wc hlow hhigh
    · exact roundTrip_close wc hu hlow hhigh hfits
    · obtain ⟨x, hx, hback⟩ := roundTrip_exact hu hlow hhigh hmag
      refine ⟨x, unitsRat u, hx, hback ▸ hv, ?_⟩
      rw [sub_self, abs_zero]
      positivity
  · rintro rfl hmag
    refine roundTrip_exact hu hlow hhigh ?_
    have hunit : (1 : ℚ) / 2 ^ 8 = unitsRat (2 ^ 141) := by norm_num [unitsRat]
    have habs : |unitsRat u| = unitsRat |u| := by simpa [unitsRat] using abs_unitsRat_sub u 0
    rw [hunit, habs, unitsRat_le] at hmag
    zify
    exact hmag

end Sys2Proof.Machine

/-! # Clip and convert: the command loops (spec 41_clip_convert R143, R159)

Both loops store one chunk of bytes a sample; a chunk reads back as it was stored
(`readBytes_writeBytes_flatMap`). -/

namespace Sys2Proof.Machine

/-! ## Samples in `MEM` -/

theorem writeBytes_append (m : Memory) (a : Nat) (bs cs : List Byte) :
    m.writeBytes a (bs ++ cs) = (m.writeBytes a bs).writeBytes (a + bs.length) cs := by
  induction bs generalizing m a with
  | nil => rfl
  | cons b bs ih =>
    rw [List.cons_append, Memory.writeBytes, ih, Memory.writeBytes, List.length_cons, Nat.add_right_comm,
      Nat.add_assoc]

theorem readBytes_writeBytes_below (m : Memory) (a b n : Nat) (bs : List Byte) (h : b + n ≤ a) :
    (m.writeBytes a bs).readBytes b n = m.readBytes b n := by
  refine List.ext_getElem (by simp) fun i hi _ => ?_
  rw [readBytes_length] at hi
  rw [readBytes_getElem, readBytes_getElem, read_writeBytes_outside _ _ _ _ (.inl (by omega))]

theorem readBytes_writeBytes_same (m : Memory) (a : Nat) (bs : List Byte) (hm : m.wf) :
    (m.writeBytes a bs).readBytes a bs.length = bs := by
  refine List.ext_getElem (by simp) fun i _ hi => ?_
  rw [readBytes_getElem, read_writeBytes_inside m a i bs hm hi]

/-- Of chunks of one size stored one after the other, each reads back. -/
theorem readBytes_writeBytes_flatMap {α : Type} (f : α → List Byte) (size : Nat)
    (hsize : ∀ x, (f x).length = size) (m : Memory) (a : Nat) (xs : List α) (hm : m.wf) (i : Nat)
    (hi : i < xs.length) :
    (m.writeBytes a (xs.flatMap f)).readBytes (a + size * i) size = f xs[i] := by
  induction xs generalizing m a i with
  | nil => simp at hi
  | cons x xs ih =>
    rw [List.flatMap_cons, writeBytes_append, hsize]
    cases i with
    | zero =>
      rw [readBytes_writeBytes_below _ _ _ _ _ (by simp), ← hsize x]
      exact readBytes_writeBytes_same m a (f x) hm
    | succ i =>
      have hstart : a + size * (i + 1) = a + size + size * i := by ring
      rw [hstart]
      exact ih _ _ (writeBytes_wf m a (f x) hm) i (by simpa using hi)

theorem leNat_append (bs cs : List Byte) : leNat (bs ++ cs) = leNat bs + 256 ^ bs.length * leNat cs := by
  induction bs with
  | nil => simp [leNat]
  | cons b bs ih =>
    rw [List.cons_append, leNat, leNat, ih, List.length_cons, pow_succ]
    ring

theorem beSampleValue_succ (m : Memory) (n a : Nat) :
    sampleValue m .be (n + 1) a = sampleValue m .be n (a + 1) + 256 ^ n * (m.read a).toNat := by
  simp only [sampleValue, placeValue, Finset.sum_range_succ', Nat.add_zero, Nat.sub_zero,
    Nat.add_sub_cancel]
  congr 1
  · refine Finset.sum_congr rfl fun k _ => ?_
    rw [Nat.add_right_comm a 1 k, ← Nat.add_assoc a k 1, Nat.sub_sub, Nat.add_comm 1 k]
  · exact Nat.mul_comm ..

theorem beNat_readBytes (m : Memory) (a n : Nat) : beNat (m.readBytes a n) = sampleValue m .be n a := by
  induction n generalizing a with
  | zero => rfl
  | succ n ih =>
    simp only [beNat] at ih ⊢
    rw [Memory.readBytes, List.reverse_cons, leNat_append, ih, beSampleValue_succ]
    simp [leNat]

/-- The model's sample word is the one of the statements (spec 20_memory R62). -/
theorem sampleNat_readBytes (m : Memory) (bo : ByteOrder) (a n : Nat) :
    sampleNat bo (m.readBytes a n) = sampleValue m bo n a := by
  cases bo with
  | le => exact leNat_readBytes m a n
  | be => exact beNat_readBytes m a n

theorem leNat_bytesLE (v n : Nat) : leNat (bytesLE v n) = v % 256 ^ n := by
  induction n generalizing v with
  | zero => rw [pow_zero, Nat.mod_one]; rfl
  | succ n ih =>
    rw [bytesLE, leNat, ih, BitVec.toNat_ofNat, pow_succ' 256 n, Nat.mod_mul]

theorem sampleNat_sampleBytes (bo : ByteOrder) (v n : Nat) :
    sampleNat bo (sampleBytes bo v n) = v % 256 ^ n := by
  cases bo with
  | le => exact leNat_bytesLE v n
  | be => simp only [sampleNat, sampleBytes, bytesBE, beNat, List.reverse_reverse, leNat_bytesLE]

theorem ofNat_leNat_bytesLE (w : FloatWord) : BitVec.ofNat 32 (leNat (bytesLE w.toNat 4)) = w := by
  apply BitVec.eq_of_toNat_eq
  have hw := w.isLt
  rw [BitVec.toNat_ofNat, leNat_bytesLE]
  omega

theorem floatAt_eq (m : Memory) (a : Nat) : floatAt m a = BitVec.ofNat 32 (leNat (m.readBytes a 4)) := by
  apply BitVec.eq_of_toNat_eq
  rw [leNat_readBytes, BitVec.toNat_ofNat]
  simp only [floatAt, toNat_append_eq, sampleValue, placeValue, Finset.sum_range_succ, Finset.sum_range_zero,
    Nat.add_zero]
  omega

theorem two_pow_widthDepth (wc : Width) : 2 ^ widthDepth wc = 256 ^ widthBytes wc := by
  cases wc <;> rfl

/-! ## What the loops store -/

/-- The sample word of a float that has one. -/
def sampleWord (wc : Width) (w : FloatWord) : Nat := (clipconv wc w).getD 0

theorem clipconv_eq_sampleWord {wc : Width} {w : FloatWord} (h : isNaN w = false) :
    clipconv wc w = some (sampleWord wc w) := by
  have hsome : clipconv wc w ≠ none := by rw [Ne, clipconv_eq_none_iff, h]; exact Bool.false_ne_true
  obtain ⟨x, hx⟩ := Option.ne_none_iff_exists'.1 hsome
  rw [sampleWord, hx, Option.getD_some]

/-- The bytes of the samples of source words, one chunk a sample. -/
def sampleChunks (wc : Width) (bo : ByteOrder) (ws : List Nat) : List Byte :=
  ws.flatMap fun w => sampleBytes bo (sampleWord wc (BitVec.ofNat 32 w)) (widthBytes wc)

theorem clipBytes_of_no_nan (wc : Width) (bo : ByteOrder) (ws : List Nat)
    (h : ∀ w ∈ ws, isNaN (BitVec.ofNat 32 w) = false) :
    clipBytes wc bo ws = some (sampleChunks wc bo ws) := by
  induction ws with
  | nil => rfl
  | cons w ws ih =>
    obtain ⟨hw, hws⟩ := List.forall_mem_cons.1 h
    rw [clipBytes, clipconv_eq_sampleWord hw, ih hws]
    rfl

theorem clipBytes_of_nan (wc : Width) (bo : ByteOrder) (ws : List Nat)
    (h : ∃ w ∈ ws, isNaN (BitVec.ofNat 32 w) = true) : clipBytes wc bo ws = none := by
  induction ws with
  | nil => simp at h
  | cons w ws ih =>
    rw [clipBytes]
    obtain hw | hws := List.exists_mem_cons_iff .. |>.1 h
    · rw [(clipconv_eq_none_iff wc _).2 hw]
    · rw [ih hws]
      cases clipconv wc (BitVec.ofNat 32 w) <;> rfl

theorem tofBytes_eq_flatMap (wc : Width) (us : List Nat) :
    tofBytes wc us = us.flatMap fun u => bytesLE (tofloat wc u).toNat 4 := by
  induction us with
  | nil => rfl
  | cons u us ih => rw [tofBytes, ih, List.flatMap_cons]

/-- A source float of the forward loop. -/
theorem readSamples_float (m : Memory) (a n i : Nat) (hi : i < (m.readSamples .le 4 a n).length) :
    BitVec.ofNat 32 (m.readSamples .le 4 a n)[i] = floatAt m (a + 4 * i) := by
  rw [readSamples_getElem, Nat.mul_comm i, floatAt_eq]
  rfl

theorem forall_readSamples_iff (m : Memory) (a n : Nat) (p : FloatWord → Prop) :
    (∀ w ∈ m.readSamples .le 4 a n, p (BitVec.ofNat 32 w)) ↔ ∀ i < n, p (floatAt m (a + 4 * i)) := by
  rw [List.forall_mem_iff_forall_getElem]
  simp only [readSamples_float, readSamples_length]

/-! ## One meaning for the variants of a command -/

/-- One byte has one order (spec 20_memory R62). -/
theorem sampleNat_one (m : Memory) (bo : ByteOrder) (a : Nat) :
    sampleNat bo (m.readBytes a 1) = sampleNat .le (m.readBytes a 1) := by
  cases bo <;> rfl

theorem sampleBytes_one (bo : ByteOrder) (v : Nat) : sampleBytes bo v 1 = sampleBytes .le v 1 := by
  cases bo <;> rfl

theorem readSamples_one (m : Memory) (bo : ByteOrder) (a n : Nat) :
    m.readSamples bo 1 a n = m.readSamples .le 1 a n := by
  induction n generalizing a with
  | zero => rfl
  | succ n ih => rw [Memory.readSamples, Memory.readSamples, sampleNat_one, ih]

theorem clipBytes_w8 (bo : ByteOrder) (ws : List Nat) : clipBytes .w8 bo ws = clipBytes .w8 .le ws := by
  induction ws with
  | nil => rfl
  | cons w ws ih => simp only [clipBytes, ih, widthBytes, sampleBytes_one bo]

theorem forward_w8 (bo : ByteOrder) (ra rb rc : Reg) (s : State) :
    forward .w8 bo ra rb rc s = forward .w8 .le ra rb rc s := by
  simp only [forward, clipBytes_w8 bo]

theorem inverse_w8 (bo : ByteOrder) (ra rb rc : Reg) (s : State) :
    inverse .w8 bo ra rb rc s = inverse .w8 .le ra rb rc s := by
  simp only [inverse, widthBytes, readSamples_one _ bo]

theorem commandRule_clipInstr (wc : Width) (bo : ByteOrder) (ra rb rc : Reg) (s : State) :
    commandRule s (clipInstr wc bo ra rb rc) = (forward wc bo ra rb rc s).map (·, 0) := by
  cases wc with
  | w8 => rw [forward_w8]; rfl
  | _ => cases bo <;> rfl

theorem commandRule_tofInstr (wc : Width) (bo : ByteOrder) (ra rb rc : Reg) (s : State) :
    commandRule s (tofInstr wc bo ra rb rc) = (inverse wc bo ra rb rc s).map (·, 0) := by
  cases wc with
  | w8 => rw [inverse_w8]; rfl
  | _ => cases bo <;> rfl

/-- A conversion command has no destination register (spec 44_system R256). -/
theorem destination_clipInstr (wc : Width) (bo : ByteOrder) (ra rb rc : Reg) :
    destination (clipInstr wc bo ra rb rc) = none := by
  cases wc <;> cases bo <;> rfl

theorem destination_tofInstr (wc : Width) (bo : ByteOrder) (ra rb rc : Reg) :
    destination (tofInstr wc bo ra rb rc) = none := by
  cases wc <;> cases bo <;> rfl

theorem exec_clipInstr {wc : Width} {bo : ByteOrder} {ra rb rc : Reg} {s t : State}
    (h : forward wc bo ra rb rc s = .ok t) : exec (clipInstr wc bo ra rb rc) s = .next t := by
  refine (exec_next ..).2 (.inl ⟨t, 0, ?_, by rw [destination_clipInstr]; rfl⟩)
  rw [commandRule_clipInstr, h]
  rfl

theorem exec_tofInstr {wc : Width} {bo : ByteOrder} {ra rb rc : Reg} {s t : State}
    (h : inverse wc bo ra rb rc s = .ok t) : exec (tofInstr wc bo ra rb rc) s = .next t := by
  refine (exec_next ..).2 (.inl ⟨t, 0, ?_, by rw [destination_tofInstr]; rfl⟩)
  rw [commandRule_tofInstr, h]
  rfl

theorem clipInstr_raises {wc : Width} {bo : ByteOrder} {ra rb rc : Reg} {s : State} {k : Cause}
    (h : forward wc bo ra rb rc s = .error k) :
    RaisesCode (causeCode k) (clipInstr wc bo ra rb rc) s :=
  raisesCode_of_commandRule (by rw [commandRule_clipInstr, h]; rfl)

theorem tofInstr_raises {wc : Width} {bo : ByteOrder} {ra rb rc : Reg} {s : State} {k : Cause}
    (h : inverse wc bo ra rb rc s = .error k) :
    RaisesCode (causeCode k) (tofInstr wc bo ra rb rc) s :=
  raisesCode_of_commandRule (by rw [commandRule_tofInstr, h]; rfl)

/-! ## The words -/

theorem encodeFields_clipInstr (wc : Width) (bo : ByteOrder) (ra rb rc : Reg) :
    encodeFields (clipInstr wc bo ra rb rc) = ⟨0x20, 0, ra, rb, rc, BitVec.ofNat 8 (convFn wc bo)⟩ := by
  cases wc <;> cases bo <;> rfl

theorem encodeFields_tofInstr (wc : Width) (bo : ByteOrder) (ra rb rc : Reg) :
    encodeFields (tofInstr wc bo ra rb rc) = ⟨0x21, 0, ra, rb, rc, BitVec.ofNat 8 (convFn wc bo)⟩ := by
  cases wc <;> cases bo <;> rfl

theorem convFn_lt (wc : Width) (bo : ByteOrder) : convFn wc bo < 2 ^ 8 := by
  cases wc <;> cases bo <;> decide

/-- The word of a conversion command (spec 30_encoding R97). -/
theorem conversionWord_toNat (op : BitVec 8) (wc : Width) (bo : ByteOrder) (ra rb rc : Reg) :
    (Fields.toWord ⟨op, 0, ra, rb, rc, BitVec.ofNat 8 (convFn wc bo)⟩).toNat =
      op.toNat * 2 ^ 24 + convFn wc bo + ra.toNat * 2 ^ 16 + rb.toNat * 2 ^ 12 + rc.toNat * 2 ^ 8 := by
  have hfn : (BitVec.ofNat 8 (convFn wc bo)).toNat = convFn wc bo := by
    rw [BitVec.toNat_ofNat, Nat.mod_eq_of_lt (convFn_lt wc bo)]
  simp only [Fields.toWord, toNat_append_eq, hfn, BitVec.ofNat_eq_ofNat, BitVec.toNat_zero]
  omega

/-! ## The checks in the terms of the statements -/

section

variable {s : State} {ra rb : Reg} (rc : Reg) {m n : Nat}

theorem convCheck_of_outside (h : ¬ RangesInside s ra rb (m * (s.reg rc).toNat) (n * (s.reg rc).toNat)) :
    s.convCheck (s.convOperands ra rb rc) m n = some .addrRange := by
  refine (convCheck_some ..).2 (.inl ⟨rfl, ?_⟩)
  rwa [RangesInside, not_and_or, not_le, not_le] at h

theorem convCheck_of_overlap (hin : RangesInside s ra rb (m * (s.reg rc).toNat) (n * (s.reg rc).toNat))
    (h : RangesOverlap s ra rb (m * (s.reg rc).toNat) (n * (s.reg rc).toNat)) :
    s.convCheck (s.convOperands ra rb rc) m n = some .overlap := by
  obtain ⟨hsrc, hdst⟩ := hin
  obtain ⟨⟨hm, hn⟩, hlow, hhigh⟩ := h
  exact (convCheck_some ..).2 (.inr ⟨rfl, hsrc, hdst, hm, hn, hlow, hhigh⟩)

theorem convCheck_of_apart (hin : RangesInside s ra rb (m * (s.reg rc).toNat) (n * (s.reg rc).toNat))
    (h : ¬ RangesOverlap s ra rb (m * (s.reg rc).toNat) (n * (s.reg rc).toNat)) :
    s.convCheck (s.convOperands ra rb rc) m n = none := by
  obtain ⟨hsrc, hdst⟩ := hin
  exact (convCheck_none ..).2 ⟨hsrc, hdst, fun ⟨hm, hn, hlow, hhigh⟩ => h ⟨⟨hm, hn⟩, hlow, hhigh⟩⟩

theorem forward_error_of_check {wc : Width} (bo : ByteOrder) {k : Cause}
    (h : s.convCheck (s.convOperands ra rb rc) 4 (widthBytes wc) = some k) :
    forward wc bo ra rb rc s = .error k := by
  simp only [forward, h]

theorem inverse_error_of_check {wc : Width} (bo : ByteOrder) {k : Cause}
    (h : s.convCheck (s.convOperands ra rb rc) (widthBytes wc) 4 = some k) :
    inverse wc bo ra rb rc s = .error k := by
  simp only [inverse, h]

theorem forward_error_of_nan {wc : Width} (bo : ByteOrder)
    (h : s.convCheck (s.convOperands ra rb rc) 4 (widthBytes wc) = none)
    (hnan : ∃ j < (s.reg rc).toNat, isNaN (floatAt s.mem ((s.reg rb).toNat + 4 * j)) = true) :
    forward wc bo ra rb rc s = .error .invalidOperand := by
  have hbytes : clipBytes wc bo (s.mem.readSamples .le 4 (s.reg rb).toNat (s.reg rc).toNat) = none := by
    obtain ⟨j, hj, hnan⟩ := hnan
    have hlen : j < (s.mem.readSamples .le 4 (s.reg rb).toNat (s.reg rc).toNat).length := by simpa using hj
    rw [← readSamples_float s.mem _ _ j hlen] at hnan
    exact clipBytes_of_nan wc bo _ ⟨_, List.getElem_mem hlen, hnan⟩
  simp only [forward, h]
  simp only [State.convOperands, hbytes]

end

/-- A store changes its bytes of `MEM` and nothing else. -/
theorem storeBytes_frame (s : State) (a : Nat) (bs : List Byte) :
    SameMemOutside a bs.length s (s.storeBytes a bs) ∧ SameRegs s (s.storeBytes a bs) ∧
      SameFault s (s.storeBytes a bs) ∧ SameFilter s (s.storeBytes a bs) ∧
      SameAnchors s (s.storeBytes a bs) ∧ SameHost s (s.storeBytes a bs) :=
  ⟨fun b hb => read_writeBytes_outside s.mem a b bs hb, fun _ => rfl, ⟨rfl, rfl⟩,
    ⟨rfl, rfl, rfl, rfl, rfl, rfl, rfl⟩, ⟨rfl, rfl, rfl, rfl, rfl, rfl⟩, ⟨rfl, rfl, rfl⟩⟩

/-! ## The statements -/

/-- Settles O16: the checks in their order (`convCheck_some`), then the NaN (`forward_error_of_nan`). -/
theorem forwardConversionFaults : Obligations.ForwardConversionFaults := by
  intro wc bo ra rb rc s n src B i
  refine ⟨fun hout => ?_, fun hin hover => ?_, fun hin hapart hnan => ?_⟩
  · exact clipInstr_raises (forward_error_of_check rc bo (convCheck_of_outside rc hout))
  · exact clipInstr_raises (forward_error_of_check rc bo (convCheck_of_overlap rc hin hover))
  · exact clipInstr_raises (forward_error_of_nan rc bo (convCheck_of_apart rc hin hapart) hnan)

/-- Settles O18: the checks in their order (`convCheck_some`). -/
theorem inverseConversionFaults : Obligations.InverseConversionFaults := by
  intro wc bo ra rb rc s n B i
  refine ⟨fun hout => ?_, fun hin hover => ?_⟩
  · exact tofInstr_raises (inverse_error_of_check rc bo (convCheck_of_outside rc hout))
  · exact tofInstr_raises (inverse_error_of_check rc bo (convCheck_of_overlap rc hin hover))

/-- Settles O15: the loop stores one chunk a float (`clipBytes_of_no_nan`), and a chunk reads back as the
sample word it was made of, which fits in its bytes (`clipconv_lt`). -/
theorem forwardConversionWritesSamples : Obligations.ForwardConversionWritesSamples := by
  refine fun wc bo ra rb rc => ⟨?_, ?_⟩
  · rw [encode, encodeFields_clipInstr, conversionWord_toNat]
    rfl
  intro s n src dst B hwf hin hapart hnan
  have hbytes := clipBytes_of_no_nan wc bo (s.mem.readSamples .le 4 src n)
    ((forall_readSamples_iff s.mem src n (isNaN · = false)).2 hnan)
  have hrule := (forward_ok wc bo ra rb rc s _).2 ⟨convCheck_of_apart rc hin hapart, _, hbytes, rfl⟩
  have hlen := clipBytes_length wc bo _ _ hbytes
  have hframe := storeBytes_frame s dst (sampleChunks wc bo (s.mem.readSamples .le 4 src n))
  rw [hlen, readSamples_length] at hframe
  refine ⟨_, exec_clipInstr hrule, fun i hi => ?_, hframe⟩
  have hx := clipconv_eq_sampleWord (wc := wc) (hnan i hi)
  have hi' : i < (s.mem.readSamples .le 4 src n).length := by rwa [readSamples_length]
  refine ⟨_, hx, ?_⟩
  rw [← sampleNat_readBytes, storeBytes_mem, sampleChunks,
    readBytes_writeBytes_flatMap _ _ (fun _ => sampleBytes_length ..) s.mem dst _ hwf i hi',
    readSamples_float, sampleNat_sampleBytes, ← two_pow_widthDepth, Nat.mod_eq_of_lt (clipconv_lt hx)]

/-- Settles O17: the loop stores one chunk a sample (`tofBytes_eq_flatMap`), and a chunk reads back as the
float it was made of. -/
theorem inverseConversionWritesFloats : Obligations.InverseConversionWritesFloats := by
  refine fun wc bo ra rb rc => ⟨?_, ?_⟩
  · rw [encode, encodeFields_tofInstr, conversionWord_toNat]
    rfl
  intro s n src dst B hwf hin hapart
  have hrule := (inverse_ok wc bo ra rb rc s _).2 ⟨convCheck_of_apart rc hin hapart, rfl⟩
  have hframe := storeBytes_frame s dst (tofBytes wc (s.mem.readSamples bo B src n))
  rw [tofBytes_length, readSamples_length] at hframe
  refine ⟨_, exec_tofInstr hrule, fun i hi => ?_, hframe⟩
  have hi' : i < (s.mem.readSamples bo B src n).length := by rwa [readSamples_length]
  rw [floatAt_eq, storeBytes_mem, tofBytes_eq_flatMap,
    readBytes_writeBytes_flatMap _ _ (fun _ => bytesLE_length ..) s.mem dst _ hwf i hi',
    ofNat_leNat_bytesLE, readSamples_getElem, sampleNat_readBytes, Nat.mul_comm i]

end Sys2Proof.Machine

/-! # The jitter filter and the timestamps (spec 42_jitter_fir)

What a push returns is the weighted mean `filteredDelta` of the statements (`pushResult_toNat`), and a mean lies
among its samples (`weightedMean_between`). Each command of unit FIR leaves the rest of the state alone
(`sameOutsideFilter`). -/

namespace Sys2Proof

/-- The word of a command that names `ra` and `rb` and leaves the other fields zero. -/
theorem twoSourceWord_toNat (op : BitVec 8) (ra rb : Reg) :
    (Fields.toWord ⟨op, 0, ra, rb, 0, 0⟩).toNat =
      op.toNat * 2 ^ 24 + ra.toNat * 2 ^ 16 + rb.toNat * 2 ^ 12 := by
  simp only [Fields.toWord, toNat_append_eq, BitVec.ofNat_eq_ofNat, BitVec.toNat_zero]
  omega

end Sys2Proof

namespace Sys2Proof.Machine

theorem otherWordsIllegal_of_row {op : BitVec 8} {spelled : Instr → Prop}
    (hrow : ∀ rd ra rb rc fn, ∃ unusedZero i, spelled i ∧
      decodeFields ⟨op, rd, ra, rb, rc, fn⟩ = whenZero unusedZero i) :
    OtherWordsIllegal op spelled := by
  refine otherWordsIllegal_of_decodeFields fun ⟨_, rd, ra, rb, rc, fn⟩ i hop hdec => ?_
  subst hop
  obtain ⟨unusedZero, j, hj, hread⟩ := hrow rd ra rb rc fn
  obtain ⟨-, rfl⟩ := (whenZero_ok ..).1 (hread.symm.trans hdec)
  exact hj

/-! ## The weighted mean -/

/-- A sum weighted by naturals that add up to the divisor lies, divided, among the samples (spec 42_jitter_fir
R190). -/
theorem weightedMean_between {n total lo hi : Nat} {weight sample : Nat → Nat} (htotal : 0 < total)
    (hsum : ∑ k ∈ Finset.range n, weight k = total) (h : ∀ k < n, lo ≤ sample k ∧ sample k ≤ hi) :
    lo ≤ (∑ k ∈ Finset.range n, weight k * sample k) / total ∧
      (∑ k ∈ Finset.range n, weight k * sample k) / total ≤ hi := by
  have hmem {k : Nat} (hk : k ∈ Finset.range n) := h k (Finset.mem_range.1 hk)
  constructor
  · rw [Nat.le_div_iff_mul_le htotal, ← hsum, Nat.mul_comm, Finset.sum_mul]
    exact Finset.sum_le_sum fun k hk => Nat.mul_le_mul_left _ (hmem hk).1
  · refine Nat.div_le_of_le_mul ?_
    rw [← hsum, Finset.sum_mul]
    exact Finset.sum_le_sum fun k hk => Nat.mul_le_mul_left _ (hmem hk).2

/-- The weights in use, newest sample first: start-up or full (spec 42_jitter_fir R183). -/
def State.weights (s : State) : List Nat := if s.firiter.toNat < 33 then boxWeights else fullWeights

theorem fullWeights_eq : fullWeights = coefficientList := by decide

theorem weights_length (s : State) : s.weights.length = if s.firiter.toNat < 33 then 4 else 33 := by
  unfold State.weights
  split <;> rfl

theorem weights_length_le (s : State) : s.weights.length ≤ 33 := by
  rw [weights_length]
  split <;> omega

theorem sum_boxWeights : ∑ k ∈ Finset.range boxWeights.length, boxWeights.getD k 0 = 1024 := by decide

theorem sum_fullWeights : ∑ k ∈ Finset.range fullWeights.length, fullWeights.getD k 0 = 1024 := by decide

/-- Both filters have gain one (spec 42_jitter_fir R181, R190). -/
theorem weights_sum (s : State) : ∑ k ∈ Finset.range s.weights.length, s.weights.getD k 0 = 1024 := by
  unfold State.weights
  split
  · exact sum_boxWeights
  · exact sum_fullWeights

theorem filteredDelta_unprimed {s : State} (v : Word64) (h : s.firiter = 0#32) :
    filteredDelta s v = v.toNat := if_pos h

/-- The two weighted sums of the statements as one. -/
theorem filteredDelta_eq_mean {s : State} (v : Word64) (h : s.firiter ≠ 0#32) :
    filteredDelta s v =
      (∑ k ∈ Finset.range s.weights.length, s.weights.getD k 0 * pushedSample s v k) / 1024 := by
  rw [filteredDelta, if_neg h, weights_length, State.weights]
  split
  · rfl
  · rw [fullWeights_eq]

theorem filteredDelta_between {s : State} {v : Word64} {lo hi : Nat} (h : s.firiter ≠ 0#32)
    (hsamples : ∀ k < if s.firiter.toNat < 33 then 4 else 33,
      lo ≤ pushedSample s v k ∧ pushedSample s v k ≤ hi) :
    lo ≤ filteredDelta s v ∧ filteredDelta s v ≤ hi := by
  rw [filteredDelta_eq_mean v h]
  rw [← weights_length] at hsamples
  exact weightedMean_between (by omega) (weights_sum s) hsamples

theorem pushedSample_lt (s : State) (v : Word64) (k : Nat) : pushedSample s v k < 2 ^ 64 := by
  unfold pushedSample
  split <;> exact BitVec.isLt _

/-- A push cannot overflow its result (spec 42_jitter_fir R192). -/
theorem filteredDelta_lt (s : State) (v : Word64) : filteredDelta s v < 2 ^ 64 := by
  by_cases h : s.firiter = 0#32
  · rw [filteredDelta_unprimed v h]
    exact v.isLt
  · have hle := (filteredDelta_between (v := v) (lo := 0) h fun k _ =>
      ⟨Nat.zero_le _, Nat.le_sub_one_of_lt (pushedSample_lt s v k)⟩).2
    omega

/-! ## A push -/

theorem weightedSum_eq_sum (data : Vector Word64 33) (p k : Nat) (weights : List Nat) :
    weightedSum data p k weights =
      ∑ j ∈ Finset.range weights.length, weights.getD j 0 * (olderSample data p (k + j)).toNat := by
  induction weights generalizing k with
  | nil => rfl
  | cons c cs ih =>
    rw [weightedSum, ih, List.length_cons, Finset.sum_range_succ', Nat.add_comm]
    simp only [List.getD_cons_succ, List.getD_cons_zero, Nat.add_zero, Nat.add_assoc, Nat.add_comm 1]

theorem firInsert_getElem (s : State) (v : Word64) (k : Nat) (hk : k < 33) :
    (s.firInsert v)[k] = if k = s.firwp.toNat then v else s.firdata[k] := by
  simp only [State.firInsert, Vector.getElem_setIfInBounds, eq_comm]

/-- The window of the model, read from the slot just written, is that of the statements. -/
theorem olderSample_firInsert {s : State} (hwp : s.firwp.toNat < 33) (v : Word64) {k : Nat} (hk : k < 33) :
    (olderSample (s.firInsert v) s.firwp.toNat k).toNat = pushedSample s v k := by
  have hslot : (s.firwp.toNat + 33 - k) % 33 = s.firwp.toNat ↔ k = 0 := by omega
  rw [olderSample, firInsert_getElem, pushedSample]
  simp only [hslot]
  split <;> rfl

theorem filterOutput_firInsert {s : State} (hwp : s.firwp.toNat < 33) (v : Word64) {weights : List Nat}
    (hlen : weights.length ≤ 33) :
    filterOutput weights (s.firInsert v) s.firwp.toNat =
      (∑ k ∈ Finset.range weights.length, weights.getD k 0 * pushedSample s v k) / 1024 := by
  rw [filterOutput, weightedSum_eq_sum, Config.fScale]
  congr 1
  refine Finset.sum_congr rfl fun k hk => ?_
  rw [Nat.zero_add, olderSample_firInsert hwp v ((Finset.mem_range.1 hk).trans_le hlen)]

/-- The result of `push(v)` is exact: nothing of it is lost to the 64 bits. -/
theorem pushResult_toNat {s : State} (hwp : s.firwp.toNat < 33) (v : Word64) :
    (s.pushResult v).toNat = filteredDelta s v := by
  unfold State.pushResult
  split
  · next h => rw [filteredDelta_unprimed v h]
  · next h =>
    have hmean := (filterOutput_firInsert hwp v (weights_length_le s)).trans (filteredDelta_eq_mean v h).symm
    rw [State.weights] at hmean
    rw [hmean, toNat_ofNat_of_lt (filteredDelta_lt s v)]

theorem nextIter_toNat (i : BitVec 32) : (nextIter i).toNat = min (i.toNat + 1) (2 ^ 32 - 1) := by
  rw [nextIter, BitVec.toNat_ofNat, Nat.mod_eq_of_lt (by omega)]

theorem push_ingests (s : State) (v : Word64) : Ingests s v (s.push v) where
  primed h := by
    rw [State.push, if_pos h]
    exact ⟨fun k => Vector.getElem_replicate .., rfl, rfl⟩
  pushed h := by
    rw [State.push, if_neg h]
    refine ⟨fun k => firInsert_getElem s v k k.isLt, ?_, nextIter_toNat s.firiter⟩
    rw [BitVec.toNat_ofNat]
    omega

/-! ## What the commands of unit FIR leave alone -/

/-- A state that takes all but the registers and unit FIR from `s`. -/
theorem sameOutsideFilter {s t : State}
    (h : t = { s with
      regs := t.regs, firctl := t.firctl, firiter := t.firiter, firwp := t.firwp, firnom := t.firnom
      tsraw := t.tsraw, tsfilt := t.tsfilt, firdata := t.firdata }) :
    SameFault s t ∧ SameAnchors s t ∧ SameMem s t ∧ SameHost s t := by
  rw [h]
  exact ⟨⟨rfl, rfl⟩, ⟨rfl, rfl, rfl, rfl, rfl, rfl⟩, fun _ => rfl, ⟨rfl, rfl, rfl⟩⟩

/-- The state of a command that ingests the sample `v`, sets the timestamps and returns `x`. -/
def State.ingested (s : State) (v raw filt : Word64) (rd : Reg) (x : Word64) : State :=
  ({ s.push v with tsraw := raw, tsfilt := filt }).setReg rd x

theorem ingested_frame (s : State) (v raw filt : Word64) (rd : Reg) (x : Word64) :
    SameRegsBut rd s (s.ingested v raw filt rd x) ∧ SameFault s (s.ingested v raw filt rd x) ∧
      SameAnchors s (s.ingested v raw filt rd x) ∧ SameMem s (s.ingested v raw filt rd x) ∧
      SameHost s (s.ingested v raw filt rd x) := by
  refine ⟨fun r hr => ?_, sameOutsideFilter ?_⟩
  · rw [State.ingested, setReg_reg_other _ _ _ _ hr]
    exact push_reg s v r
  · unfold State.ingested State.push
    split <;> rfl

theorem ingested_ingests (s : State) (v raw filt : Word64) (rd : Reg) (x : Word64) :
    Ingests s v (s.ingested v raw filt rd x) :=
  ⟨(push_ingests s v).primed, (push_ingests s v).pushed⟩

theorem exec_firpush (rd ra : Reg) (s : State) :
    exec (.firpush rd ra) s =
      .next (s.ingested (s.reg ra) s.tsraw s.tsfilt rd (s.pushResult (s.reg ra))) := by
  have hstamps : s.push (s.reg ra) = { s.push (s.reg ra) with tsraw := s.tsraw, tsfilt := s.tsfilt } := by
    unfold State.push
    split <;> rfl
  rw [State.ingested, ← hstamps]
  rfl

/-- Settles O24: the decoder reads one command at this opcode, and `FIRITER` alone is written. -/
theorem filterResetClearsIteration : Obligations.FilterResetClearsIteration :=
  ⟨otherWordsIllegal_of_row fun _ _ _ _ _ => ⟨_, _, rfl, rfl⟩, rfl, fun _ =>
    ⟨_, rfl, rfl, rfl, rfl, ⟨rfl, rfl, rfl, rfl⟩, fun _ => rfl, sameOutsideFilter rfl⟩⟩

/-- Settles O25: as for `FIRRST`, with the bits of `FIRCTL` after `setInit`. -/
theorem timestampInitArmsPriming : Obligations.TimestampInitArmsPriming :=
  ⟨otherWordsIllegal_of_row fun _ _ _ _ _ => ⟨_, _, rfl, rfl⟩, rfl, fun s =>
    ⟨_, rfl, setInit_initArmed s true, setInit_nomValid s true, rfl, rfl, rfl, rfl, rfl, rfl, fun _ => rfl,
      sameOutsideFilter rfl⟩⟩

/-- Settles O26: the result is the exact mean (`pushResult_toNat`), and the window shifts by one
(`push_ingests`). -/
theorem filterPushReturnsWeightedSum : Obligations.FilterPushReturnsWeightedSum := by
  refine ⟨otherWordsIllegal_twoRegister fun _ _ _ _ _ => rfl, fun rd ra =>
    ⟨twoRegisterWord_toNat 0x31 rd ra, fun s hwp => ?_⟩⟩
  obtain ⟨hregs, houtside⟩ := ingested_frame s (s.reg ra) s.tsraw s.tsfilt rd (s.pushResult (s.reg ra))
  refine ⟨_, exec_firpush rd ra s, ?_, ingested_ingests .., hregs,
    ⟨push_firctl .., push_firnom .., rfl, rfl⟩, houtside⟩
  rw [State.ingested, setReg_reg_same, pushResult_toNat hwp]

/-- Settles O27: `FIRPUSH` returns the mean (`filterPushReturnsWeightedSum`), which lies among its samples
(`filteredDelta_between`). -/
theorem filterOutputLiesAmongSamples : Obligations.FilterOutputLiesAmongSamples := by
  intro rd ra s lo hi hwp hiter hsamples
  obtain ⟨t, hexec, hvalue, -⟩ := (filterPushReturnsWeightedSum.2 rd ra).2 s hwp
  exact ⟨t, hexec, hvalue ▸ filteredDelta_between hiter hsamples⟩

/-! ## The nominal delta -/

theorem nominalDelta_eq_floor (frames rate : Nat) :
    ⌊(10 ^ 9 * frames : ℚ) / rate⌋ = (nominalDelta frames rate : ℤ) := by
  rw [nominalDelta, Int.natCast_ediv, ← Rat.floor_natCast_div_natCast]
  norm_cast

theorem firnom_raises {ra rb : Reg} {s : State} {k : Cause} (h : s.storeNominal ra rb = .error k) :
    RaisesCode (causeCode k) (.firnom ra rb) s :=
  raisesCode_of_commandRule ((except_map_eq_error ..).2 h)

theorem exec_firnom {ra rb : Reg} {s : State} (hrate : (s.reg rb).toNat ≠ 0)
    (hfits : nominalDelta (s.reg ra).toNat (s.reg rb).toNat < 2 ^ 64) :
    exec (.firnom ra rb) s = .next { s.setNomv true with
      firnom := BitVec.ofNat 64 (nominalDelta (s.reg ra).toNat (s.reg rb).toNat) } :=
  (complete_next ..).2 (.inl ((storeNominal_ok ..).2 ⟨hrate, hfits, rfl⟩))

/-- Settles O28: the rule of `FIRNOM` by its two checks, with the rational floor as a natural quotient
(`nominalDelta_eq_floor`). -/
theorem nominalDeltaIsStored : Obligations.NominalDeltaIsStored := by
  refine ⟨otherWordsIllegal_of_row fun _ ra rb _ _ => ⟨_, _, ⟨ra, rb, rfl⟩, rfl⟩, fun ra rb =>
    ⟨twoSourceWord_toNat 0x32 ra rb, fun s => ?_⟩⟩
  simp only [nominalDelta_eq_floor]
  refine ⟨fun hzero => ?_, fun hrate hlarge => ?_, fun hrate hfits => ?_⟩
  · exact firnom_raises (k := .divideByZero) (if_pos hzero)
  · have hlarge : 2 ^ 64 ≤ nominalDelta (s.reg ra).toNat (s.reg rb).toNat := by exact_mod_cast hlarge
    exact firnom_raises (k := .resultRange) ((if_neg hrate).trans (if_pos hlarge))
  · have hfits : nominalDelta (s.reg ra).toNat (s.reg rb).toNat < 2 ^ 64 := by exact_mod_cast hfits
    exact ⟨_, exec_firnom hrate hfits, congrArg Nat.cast (toNat_ofNat_of_lt hfits), setNomv_nomValid s true,
      setNomv_initArmed s true, rfl, rfl, rfl, rfl, rfl, fun _ => rfl, sameOutsideFilter rfl⟩

/-! ## A timestamp that primes -/

theorem stampRule_armed {s : State} (raw : Word64) (harmed : s.initArmed = true) :
    s.stampRule raw =
      if s.nomValid then
        .ok (({ s.prime s.firnom with tsraw := raw, tsfilt := raw }).setInit false, raw)
      else .error .notConfigured := if_pos harmed

/-- Settles O29: the two outcomes of the priming branch (`stampRule_armed`). -/
theorem timestampPrimes : Obligations.TimestampPrimes := by
  intro rd ra s harmed
  have hrule := stampRule_armed (s.reg ra) harmed
  refine ⟨fun hnomv => ?_, fun hnomv => ?_⟩ <;> rw [hnomv] at hrule
  · exact raisesCode_of_commandRule (k := .notConfigured) hrule
  · refine ⟨_, (exec_next ..).2 (.inl ⟨_, _, hrule, rfl⟩), setReg_reg_same .., rfl, rfl, ?_, ?_,
      fun k => Vector.getElem_replicate .., rfl, rfl, rfl, fun r hr => setReg_reg_other _ _ _ _ hr,
      sameOutsideFilter rfl⟩
    · exact setInit_initArmed _ false
    · exact (setInit_nomValid _ false).trans hnomv

/-! ## A timestamp that filters -/

theorem stampRule_unarmed {s : State} (raw : Word64) (hunarmed : s.initArmed = false) :
    s.stampRule raw =
      if raw.toNat < s.tsraw.toNat then .error .rawRegression
      else if 2 ^ 64 ≤ s.tsfilt.toNat + (s.pushResult (raw - s.tsraw)).toNat then .error .resultRange
      else
        .ok ({ s.push (raw - s.tsraw) with
            tsraw := raw
            tsfilt := BitVec.ofNat 64 (s.tsfilt.toNat + (s.pushResult (raw - s.tsraw)).toNat) },
          BitVec.ofNat 64 (s.tsfilt.toNat + (s.pushResult (raw - s.tsraw)).toNat)) := by
  rw [State.stampRule, hunarmed, if_neg Bool.false_ne_true]

theorem sub_eq_ofNat {x y : Word64} (h : y.toNat ≤ x.toNat) : x - y = BitVec.ofNat 64 (x.toNat - y.toNat) := by
  apply BitVec.eq_of_toNat_eq
  rw [BitVec.toNat_sub_of_le h, toNat_ofNat_of_lt (by omega)]

/-- Settles O30: the checks of the filtering branch in their order, with the result of the push as the exact mean
(`pushResult_toNat`). -/
theorem timestampFilters : Obligations.TimestampFilters := by
  intro rd ra s hunarmed hwp raw delta
  have hrule := stampRule_unarmed raw hunarmed
  refine ⟨fun hraw => ?_, fun hraw hlarge => ?_, fun hraw hfits => ?_⟩
  · rw [if_pos hraw] at hrule
    exact raisesCode_of_commandRule (k := .rawRegression) hrule
  all_goals rw [if_neg (Nat.not_lt.2 hraw), sub_eq_ofNat hraw, pushResult_toNat hwp] at hrule
  · rw [if_pos hlarge] at hrule
    exact raisesCode_of_commandRule (k := .resultRange) hrule
  · rw [if_neg (Nat.not_le.2 hfits)] at hrule
    obtain ⟨hregs, houtside⟩ := ingested_frame s delta raw _ rd _
    refine ⟨s.ingested delta raw _ rd _, (exec_next ..).2 (.inl ⟨_, _, hrule, rfl⟩), ?_, rfl,
      (setReg_reg_same ..).symm, ingested_ingests .., push_firctl .., push_firnom .., hregs, houtside⟩
    rw [State.ingested, setReg_reg_same, toNat_ofNat_of_lt hfits]

/-! ## A constant period -/

theorem pushedSample_constant {s : State} {v : Word64} (h : ∀ k : Fin 33, s.firdata[k] = v) (k : Nat) :
    pushedSample s v k = v.toNat := by
  unfold pushedSample
  split
  · rfl
  · exact congrArg BitVec.toNat (h ⟨(s.firwp.toNat + 33 - k) % 33, Nat.mod_lt _ (by decide)⟩)

/-- A constant input gives the constant output (spec 42_jitter_fir R190). -/
theorem filteredDelta_constant {s : State} {v : Word64} (hiter : s.firiter ≠ 0#32)
    (h : ∀ k : Fin 33, s.firdata[k] = v) : filteredDelta s v = v.toNat := by
  obtain ⟨hlow, hhigh⟩ := filteredDelta_between (lo := v.toNat) (hi := v.toNat) hiter fun k _ =>
    ⟨(pushedSample_constant h k).ge, (pushedSample_constant h k).le⟩
  exact hhigh.antisymm hlow

/-- A push into a filter that holds one value keeps that value in every slot. -/
theorem Ingests.constant {s t : State} {v : Word64} (hpush : Ingests s v t) (hiter : s.firiter ≠ 0#32)
    (h : ∀ k : Fin 33, s.firdata[k] = v) :
    t.firwp.toNat < 33 ∧ t.firiter ≠ 0#32 ∧ ∀ k : Fin 33, t.firdata[k] = v := by
  obtain ⟨hdata, hwp, hcount⟩ := hpush.pushed hiter
  refine ⟨by omega, fun hzero => ?_, fun k => ?_⟩
  · rw [hzero, BitVec.toNat_zero] at hcount
    omega
  · rw [hdata, h, ite_self]

/-- Settles O33: the delta is the period, the mean of slots at the period is the period
(`filteredDelta_constant`), so the filtering branch (`timestampFilters`) returns `TSRAW` plus the period. -/
theorem constantPeriodReturnsRaw : Obligations.ConstantPeriodReturnsRaw := by
  intro rd ra s period hunarmed hwp hiter hdata hsame hraw
  have hdelta : BitVec.ofNat 64 ((s.reg ra).toNat - s.tsraw.toNat) = period := by
    rw [hraw, Nat.add_sub_cancel_left, BitVec.ofNat_toNat, BitVec.setWidth_eq]
  have hsum : s.tsfilt.toNat + filteredDelta s period = (s.reg ra).toNat := by
    rw [filteredDelta_constant hiter hdata, hsame, hraw]
  obtain ⟨-, -, hfilters⟩ := timestampFilters rd ra s hunarmed hwp
  simp only [hdelta, hsum] at hfilters
  obtain ⟨t, hexec, hvalue, htsraw, htsfilt, hingests, hfirctl, -⟩ :=
    hfilters (by omega) (BitVec.isLt _)
  have hreg : t.reg rd = s.reg ra := BitVec.eq_of_toNat_eq hvalue
  refine ⟨t, hexec, hreg, htsraw, htsfilt.trans hreg, ?_, hingests.constant hiter hdata⟩
  rw [State.initArmed, hfirctl]
  exact hunarmed

/-! ## Timestamps along a run (spec 42_jitter_fir R189) -/

/-- Neither timestamp goes back. -/
def StampsAdvance (s t : State) : Prop :=
  s.tsfilt.toNat ≤ t.tsfilt.toNat ∧ s.tsraw.toNat ≤ t.tsraw.toNat

theorem StampsAdvance.of_eq {s t : State} (hraw : t.tsraw = s.tsraw) (hfilt : t.tsfilt = s.tsfilt) :
    StampsAdvance s t := ⟨hfilt ▸ Nat.le_refl _, hraw ▸ Nat.le_refl _⟩

theorem StampsAdvance.trans {s t u : State} (h : StampsAdvance s t) (h' : StampsAdvance t u) :
    StampsAdvance s u := ⟨h.1.trans h'.1, h.2.trans h'.2⟩

/-- The filtered delta is not negative. -/
theorem stampRule_advances {s u : State} {raw v : Word64} (hunarmed : s.initArmed = false)
    (h : s.stampRule raw = .ok (u, v)) : StampsAdvance s u := by
  rw [stampRule_unarmed raw hunarmed] at h
  split_ifs at h with hraw hlarge
  cases h
  refine ⟨?_, Nat.not_lt.1 hraw⟩
  rw [toNat_ofNat_of_lt (Nat.not_le.1 hlarge)]
  exact Nat.le_add_right ..

/-- Of all commands only `TSTAMP` changes the timestamps. -/
theorem commandRule_advances {s u : State} {i : Instr} {v : Word64} (hunarmed : s.initArmed = false)
    (h : commandRule s i = .ok (u, v)) : StampsAdvance s u := by
  cases i
  case tstamp => exact stampRule_advances hunarmed h
  case clip8 | clip16le | clip24le | clip32le | clip16be | clip24be | clip32be =>
    obtain ⟨u, hf, ⟨⟩⟩ := (except_map_eq_ok ..).1 h
    obtain ⟨-, bs, -, rfl⟩ := (forward_ok ..).1 hf
    exact .of_eq rfl rfl
  case tof8 | tof16le | tof24le | tof32le | tof16be | tof24be | tof32be =>
    obtain ⟨u, hf, ⟨⟩⟩ := (except_map_eq_ok ..).1 h
    obtain ⟨-, rfl⟩ := (inverse_ok ..).1 hf
    exact .of_eq rfl rfl
  case fb3 | fb4 | ancf | anct | estrate | estf2t =>
    obtain ⟨_, -, ⟨⟩⟩ := (except_map_eq_ok ..).1 h
    exact .of_eq rfl rfl
  case csrr =>
    simp only [commandRule] at h
    split at h <;> cases h
    exact .of_eq rfl rfl
  case firnom =>
    obtain ⟨u, hn, ⟨⟩⟩ := (except_map_eq_ok ..).1 h
    obtain ⟨-, -, rfl⟩ := (storeNominal_ok ..).1 hn
    exact .of_eq rfl rfl
  case firpush => cases h; exact .of_eq (push_tsraw ..) (push_tsfilt ..)
  case ancadd => cases h; exact .of_eq (addAnchor_tsraw ..) (addAnchor_tsfilt ..)
  all_goals cases h; exact .of_eq rfl rfl

theorem exec_advances {s t : State} {i : Instr} (hunarmed : s.initArmed = false) (h : exec i s = .next t) :
    StampsAdvance s t := by
  rcases (exec_next ..).1 h with ⟨u, v, hrule, rfl⟩ | ⟨k, -, rfl⟩
  · have hu := commandRule_advances hunarmed hrule
    cases destination i <;> exact hu
  · exact .of_eq rfl rfl

theorem runCommand_advances {s t : State} {w : CmdWord} (hunarmed : s.initArmed = false)
    (h : runCommand w s = .next t) : StampsAdvance s t ∧ t.input = s.input := by
  rcases runCommand_cases w s with ⟨-, hrun⟩ | ⟨-, -, hrun⟩ | ⟨-, i, -, hrun⟩ <;> rw [hrun] at h
  · cases h; exact ⟨.of_eq rfl rfl, rfl⟩
  · cases h; exact ⟨.of_eq rfl rfl, rfl⟩
  · obtain ⟨-, -, hhost⟩ := commandWritesOnlyItsDestination i s t h
    exact ⟨exec_advances hunarmed h, hhost.input⟩

theorem transact_advances {s t : State} {x : Transaction} (hunarmed : s.initArmed = false) (hx : x ≠ .reset)
    (h : transact x s = .next t) : StampsAdvance s t ∧ t.input = s.input := by
  cases x with
  | reset => exact absurd rfl hx
  | cmd w => exact runCommand_advances hunarmed h
  | memwr a bs =>
    cases h
    unfold State.hostWrite
    split <;> exact ⟨.of_eq rfl rfl, rfl⟩
  | _ => cases h; exact ⟨.of_eq rfl rfl, rfl⟩

/-- The filter stays primed: `INIT` is 0, and no transaction that sets it is pending (spec 10_state R29). -/
def StaysPrimed (s : State) : Prop :=
  s.initArmed = false ∧ ∀ x ∈ s.input, x ≠ .reset ∧ x ≠ .cmd (encode .tsinit)

/-- A step sets `INIT` only by a transaction that is not pending
(`configurationBitsChangeOnlyByTheirCommands`). -/
theorem StaysPrimed.unarmed_of_step {s t : State} (hs : StaysPrimed s) (h : step s = .next t) :
    t.initArmed = false := by
  obtain ⟨hunarmed, hinput⟩ := hs
  obtain ⟨harms, -⟩ := configurationBitsChangeOnlyByTheirCommands s t h
  by_contra harmed
  obtain ⟨rest, hin | ⟨-, hin⟩⟩ := harms hunarmed (Bool.eq_true_of_not_eq_false harmed)
  · exact (hinput .reset (hin ▸ List.mem_cons_self)).1 rfl
  · exact (hinput (.cmd (encode .tsinit)) (hin ▸ List.mem_cons_self)).2 rfl

theorem StaysPrimed.step {s t : State} (hs : StaysPrimed s) (h : step s = .next t) :
    StaysPrimed t ∧ StampsAdvance s t := by
  have hunarmed := hs.unarmed_of_step h
  cases hin : s.input with
  | nil =>
    rw [step_nil s hin] at h
    cases h
    exact ⟨hs, .of_eq rfl rfl⟩
  | cons x rest =>
    have hinput : ∀ y ∈ x :: rest, y ≠ .reset ∧ y ≠ .cmd (encode .tsinit) := hin ▸ hs.2
    rw [step_cons s x rest hin] at h
    obtain ⟨hstamps, hrest⟩ := transact_advances (s := { s with input := rest }) hs.1
      (hinput x List.mem_cons_self).1 h
    refine ⟨⟨hunarmed, fun y hy => hinput y (List.mem_cons_of_mem x ?_)⟩, hstamps⟩
    rwa [hrest] at hy

theorem of_run_succ {n : Nat} {s u : State} (h : Host.Core.run Sys2Proof.core (n + 1) s = .next u) :
    ∃ t, step s = .next t ∧ Host.Core.run Sys2Proof.core n t = .next u := by
  have hcore : Sys2Proof.core.step s = step s := rfl
  simp only [Host.Core.run, hcore] at h
  split at h
  · next t hstep => exact ⟨t, hstep, h⟩
  · cases h
  · cases h

/-- Settles O31, by induction on the number of steps: each keeps the filter primed and lets no timestamp go back
(`StaysPrimed.step`). -/
theorem timestampsNeverRegress : Obligations.TimestampsNeverRegress := by
  intro n s t hunarmed hinput hrun
  suffices h : StaysPrimed t ∧ StampsAdvance s t from ⟨h.1.1, h.2⟩
  have hs : StaysPrimed s := ⟨hunarmed, hinput⟩
  clear hunarmed hinput
  induction n generalizing s with
  | zero => cases hrun; exact ⟨hs, .of_eq rfl rfl⟩
  | succ n ih =>
    obtain ⟨u, hstep, hrest⟩ := of_run_succ hrun
    obtain ⟨hu, hadvance⟩ := hs.step hstep
    obtain ⟨ht, hrestAdvance⟩ := ih u hrest hu
    exact ⟨ht, hadvance.trans hrestAdvance⟩

end Sys2Proof.Machine

/-! # The rate estimator (spec 43_rate_estimator)

`num` and `den` are one form, `spread`, which grows with each anchor by the products of its distances to those it
joins (`spread_cons`); so `den` is a sum of squares. Under the invariant the sum registers give that form, and
the floored quotients of the model are the rational floors of the statements (`floor_div_eq_fdiv`). -/

namespace Sys2Proof

/-- The word of a command that names `rd` and leaves the other fields zero. -/
theorem oneRegisterWord_toNat (op : BitVec 8) (rd : Reg) :
    (Fields.toWord ⟨op, rd, 0, 0, 0, 0⟩).toNat = op.toNat * 2 ^ 24 + rd.toNat * 2 ^ 20 := by
  rw [twoRegisterWord_toNat, BitVec.ofNat_eq_ofNat, BitVec.toNat_zero, Nat.zero_mul, Nat.add_zero]

end Sys2Proof

namespace Sys2Proof.Machine

/-! ## The FIFO as a list -/

theorem anchorSum_perm {f : Anchor → Nat} {l l' : List Anchor} (h : l.Perm l') :
    anchorSum f l = anchorSum f l' :=
  (h.map f).sum_eq

/-- `N` times the sum of the products less the product of the sums (spec 43_rate_estimator R217). -/
def spread (f g : Anchor → Nat) (l : List Anchor) : ℤ :=
  l.length * anchorSum (fun a => f a * g a) l - anchorSum f l * anchorSum g l

theorem fifoNum_eq_spread (l : List Anchor) :
    fifoNum l = spread (fun a => a.frame.toNat) (fun a => a.time.toNat) l := rfl

theorem fifoDen_eq_spread (l : List Anchor) :
    fifoDen l = spread (fun a => a.frame.toNat) (fun a => a.frame.toNat) l := rfl

/-- The products of the distances of an anchor to those of a list. -/
def distanceProducts (f g : Anchor → Nat) (a : Anchor) (l : List Anchor) : List ℤ :=
  l.map fun b => ((f b : ℤ) - f a) * (g b - g a)

theorem sum_distanceProducts (f g : Anchor → Nat) (a : Anchor) (l : List Anchor) :
    (distanceProducts f g a l).sum =
      anchorSum (fun a => f a * g a) l - f a * anchorSum g l - g a * anchorSum f l +
        l.length * (f a * g a) := by
  induction l with
  | nil => simp [distanceProducts, anchorSum]
  | cons b l ih =>
    rw [distanceProducts] at ih ⊢
    rw [List.map_cons, List.sum_cons, ih]
    simp only [anchorSum_cons, List.length_cons]
    push_cast
    ring

theorem spread_cons (f g : Anchor → Nat) (a : Anchor) (l : List Anchor) :
    spread f g (a :: l) = spread f g l + (distanceProducts f g a l).sum := by
  rw [sum_distanceProducts]
  simp only [spread, anchorSum_cons, List.length_cons]
  push_cast
  ring

theorem distanceSquares_nonneg (f : Anchor → Nat) (a : Anchor) (l : List Anchor) :
    ∀ x ∈ distanceProducts f f a l, 0 ≤ x := by
  intro x hx
  obtain ⟨b, -, rfl⟩ := List.mem_map.1 hx
  exact mul_self_nonneg _

theorem sum_distanceSquares_eq_zero_iff (f : Anchor → Nat) (a : Anchor) (l : List Anchor) :
    (distanceProducts f f a l).sum = 0 ↔ ∀ b ∈ l, f a = f b := by
  have hnonneg := distanceSquares_nonneg f a l
  constructor
  · intro hsum b hb
    have hterm := List.mem_map_of_mem (f := fun b => ((f b : ℤ) - f a) * (f b - f a)) hb
    have hzero := (hnonneg _ hterm).antisymm ((List.single_le_sum hnonneg _ hterm).trans_eq hsum)
    have hdistance := mul_self_eq_zero.1 hzero.symm
    omega
  · intro h
    refine List.sum_eq_zero fun x hx => ?_
    obtain ⟨b, hb, rfl⟩ := List.mem_map.1 hx
    rw [h b hb, sub_self, zero_mul]

theorem spread_self_nonneg (f : Anchor → Nat) (l : List Anchor) : 0 ≤ spread f f l := by
  induction l with
  | nil => exact le_rfl
  | cons a l ih =>
    rw [spread_cons]
    exact add_nonneg ih (List.sum_nonneg (distanceSquares_nonneg f a l))

theorem spread_self_eq_zero_iff (f : Anchor → Nat) (l : List Anchor) :
    spread f f l = 0 ↔ ∀ a ∈ l, ∀ b ∈ l, f a = f b := by
  induction l with
  | nil => simp [spread, anchorSum]
  | cons a l ih =>
    rw [spread_cons, add_eq_zero_iff_of_nonneg (spread_self_nonneg f l)
      (List.sum_nonneg (distanceSquares_nonneg f a l)), ih, sum_distanceSquares_eq_zero_iff]
    simp only [List.forall_mem_cons, true_and]
    exact ⟨fun ⟨hl, ha⟩ => ⟨ha, fun b hb => ⟨(ha b hb).symm, hl b hb⟩⟩,
      fun ⟨ha, hl⟩ => ⟨fun b hb => (hl b hb).2, ha⟩⟩

/-- On a line of slope `p / q` the distances are in that proportion (spec 43_rate_estimator R226). -/
theorem spread_collinear {f g : Anchor → Nat} {p q c : ℤ} {l : List Anchor}
    (h : ∀ a ∈ l, q * g a = c + p * f a) : q * spread f g l = p * spread f f l := by
  induction l with
  | nil => simp [spread, anchorSum]
  | cons a l ih =>
    have hproducts : q * (distanceProducts f g a l).sum = p * (distanceProducts f f a l).sum := by
      simp only [distanceProducts, ← List.sum_map_mul_left]
      refine congrArg List.sum (List.map_congr_left fun b hb => ?_)
      have hfirst := h a List.mem_cons_self
      have hother := h b (List.mem_cons_of_mem a hb)
      linear_combination ((f b : ℤ) - f a) * (hother - hfirst)
    rw [spread_cons, spread_cons, mul_add, mul_add, hproducts,
      ih fun b hb => h b (List.mem_cons_of_mem a hb)]

theorem spread_perm {f g : Anchor → Nat} {l l' : List Anchor} (h : l.Perm l') :
    spread f g l = spread f g l' := by
  simp only [spread, h.length_eq, anchorSum_perm h]

/-- The products of at most 4096 words each way stay below `2^152` (spec 43_rate_estimator R217). -/
theorem abs_spread_lt {f g : Anchor → Nat} {l : List Anchor} (hf : ∀ a, f a ≤ 2 ^ 64 - 1)
    (hg : ∀ a, g a ≤ 2 ^ 64 - 1) (hl : l.length ≤ 4096) : |spread f g l| < 2 ^ 152 := by
  have hsum {e : Anchor → Nat} {b : Nat} (he : ∀ a, e a ≤ b) : anchorSum e l ≤ 4096 * b :=
    (anchorSum_le e b he l).trans (Nat.mul_le_mul_right b hl)
  have hproducts : l.length * anchorSum (fun a => f a * g a) l < 2 ^ 152 :=
    (Nat.mul_le_mul hl (hsum fun a => Nat.mul_le_mul (hf a) (hg a))).trans_lt (by decide)
  have hsums : anchorSum f l * anchorSum g l < 2 ^ 152 :=
    (Nat.mul_le_mul (hsum hf) (hsum hg)).trans_lt (by decide)
  exact abs_sub_lt_of_nonneg_of_lt (by positivity) (by exact_mod_cast hproducts) (by positivity)
    (by exact_mod_cast hsums)

/-! ## The sum registers and the exact fractions -/

section

variable {s : State}

theorem Inv.den_eq (h : Inv s) : s.den = fifoDen s.anchors := by
  rw [State.den, h.sxx_sum, h.sx_sum]
  rfl

theorem Inv.num_eq (h : Inv s) : s.num = fifoNum s.anchors := by
  rw [State.num, h.sxy_sum, h.sx_sum, h.sy_sum]
  rfl

theorem fifoDen_nonneg (l : List Anchor) : 0 ≤ fifoDen l := spread_self_nonneg ..

theorem fifoDen_eq_zero_iff (l : List Anchor) :
    fifoDen l = 0 ↔ ∀ a ∈ l, ∀ b ∈ l, a.frame = b.frame := by
  simp only [fifoDen_eq_spread, spread_self_eq_zero_iff, BitVec.toNat_inj]

theorem fifoDen_eq_zero_of_ancn_le (h : s.ancn ≤ 1) : fifoDen s.anchors = 0 := by
  rcases Nat.le_one_iff_eq_zero_or_eq_one.1 h with hlen | hlen
  · rw [List.length_eq_zero_iff.1 hlen]
    rfl
  · obtain ⟨a, ha⟩ := List.length_eq_one_iff.1 hlen
    simp [ha, fifoDen_eq_zero_iff]

theorem frame_le (a : Anchor) : a.frame.toNat ≤ 2 ^ 64 - 1 := Nat.le_sub_one_of_lt a.frame.isLt

theorem time_le (a : Anchor) : a.time.toNat ≤ 2 ^ 64 - 1 := Nat.le_sub_one_of_lt a.time.isLt

theorem Inv.ancn_le_hardware (h : Inv s) : s.ancn ≤ 4096 := by
  obtain ⟨-, -, -, hmax⟩ := h.cfg_valid
  exact h.ancn_le.trans hmax

end

/-- Settles O40: `num` and `den` are spreads (`Inv.num_eq`, `Inv.den_eq`), and that of the frame numbers is a sum
of squares of their distances (`spread_self_eq_zero_iff`). -/
theorem denominatorVanishesOnlyOnEqualFrames : Obligations.DenominatorVanishesOnlyOnEqualFrames := by
  intro s h
  have hlen := h.ancn_le_hardware
  have hden : |fifoDen s.anchors| < 2 ^ 152 := abs_spread_lt frame_le frame_le hlen
  have hnum : |fifoNum s.anchors| < 2 ^ 152 := abs_spread_lt frame_le time_le hlen
  rw [h.den_eq, h.num_eq]
  refine ⟨fifoDen_nonneg _, (abs_lt.1 hden).2, hnum,
    fun hzero => .inr ((fifoDen_eq_zero_iff _).1 hzero), ?_⟩
  rintro (hfew | hequal)
  · exact fifoDen_eq_zero_of_ancn_le hfew
  · exact (fifoDen_eq_zero_iff _).2 hequal

/-- The floored division of the model is the rational floor of the spec (spec 00_scope R8). -/
theorem floor_div_eq_fdiv (a : ℤ) {b : ℤ} (hb : 0 ≤ b) : ⌊(a : ℚ) / (b : ℚ)⌋ = a.fdiv b := by
  lift b to ℕ using hb
  rw [Int.fdiv_eq_ediv_of_nonneg a b.cast_nonneg, Int.cast_natCast, Rat.floor_intCast_div_natCast]

theorem Inv.slope_eq {s : State} (h : Inv s) : s.slope = fifoRate s.cfg.xprec s.anchors := by
  rw [State.slope, h.num_eq, h.den_eq, fifoRate, floor_div_eq_fdiv _ (fifoDen_nonneg _)]

theorem queryTime_eq (a : Anchor) (w f : Word64) (xprec : Nat) :
    queryTime a w f xprec = fifoTime xprec a w.toNat f.toNat := by
  rw [queryTime, fifoTime, ← Int.cast_natCast (R := ℚ) xprec, floor_div_eq_fdiv _ xprec.cast_nonneg]

/-! ## The rate and the query by their checks -/

theorem fit64_inside {x : ℤ} (h : 0 ≤ x) (h' : x < 2 ^ 64) : fit64 x = .ok (BitVec.ofInt 64 x) :=
  if_neg (by omega)

theorem fit64_outside {x : ℤ} (h : x < 0 ∨ 2 ^ 64 ≤ x) : fit64 x = .error .resultRange := if_pos h

theorem Inv.rate_underdetermined {s : State} (h : Inv s) (hfew : s.ancn < 2 ∨ fifoDen s.anchors = 0) :
    s.rate = .error .estUnderdetermined :=
  (rate_error ..).2 (.inl ⟨rfl, by rwa [h.den_eq]⟩)

theorem Inv.rate_eq_fit64 {s : State} (h : Inv s) (hmany : 2 ≤ s.ancn) (hden : fifoDen s.anchors ≠ 0) :
    s.rate = fit64 (fifoRate s.cfg.xprec s.anchors) := by
  rw [State.rate, if_neg (Nat.not_lt.2 hmany), h.den_eq, if_neg hden, h.slope_eq]

theorem frameToTime_of_rate_error {s : State} {k : Cause} (f : Word64) (h : s.rate = .error k) :
    s.frameToTime f = .error k := by
  rw [State.frameToTime, h]

theorem frameToTime_eq_fit64 {s : State} {w : Word64} {a : Anchor} (f : Word64) (hrate : s.rate = .ok w)
    (ha : s.newest = some a) :
    s.frameToTime f = fit64 (fifoTime s.cfg.xprec a w.toNat f.toNat) := by
  rw [State.frameToTime, hrate, ← queryTime_eq]
  simp only [ha]

theorem newest_append {s : State} {older : List Anchor} {a : Anchor} (h : s.anchors = older ++ [a]) :
    s.newest = some a := by
  rw [State.newest, h, List.getLast?_concat]

/-- A rule that reads the FIFO and changes nothing before its register write: the register takes its value. -/
theorem exists_writesReg_of_map {α : Type} {i : Instr} {s : State} {rd : Reg} {r : Except Cause α} {x : α}
    {value : α → Word64} (hrule : commandRule s i = r.map fun y => (s, value y))
    (hdest : destination i = some rd) (h : r = .ok x) :
    ∃ t, exec i s = .next t ∧ WritesReg rd (value x) s t := by
  refine ⟨_, (exec_next ..).2 (.inl ⟨s, value x, hrule.trans (h ▸ rfl), ?_⟩),
    setReg_writesReg s rd (value x)⟩
  rw [hdest]
  rfl

/-- Such a rule raises the cause it ends in. -/
theorem raisesCode_of_map {α : Type} {i : Instr} {s : State} {r : Except Cause α} {k : Cause}
    {value : α → Word64} (hrule : commandRule s i = r.map fun y => (s, value y)) (h : r = .error k) :
    RaisesCode (causeCode k) i s :=
  raisesCode_of_commandRule (hrule.trans (h ▸ rfl))

/-- Settles O38: `ESTRATE` ends as `State.rate` does, which is the exact fraction checked for its range
(`Inv.rate_eq_fit64`). -/
theorem rateEstimateIsLeastSquaresSlope : Obligations.RateEstimateIsLeastSquaresSlope := by
  refine ⟨otherWordsIllegal_of_row fun rd _ _ _ _ => ⟨_, _, ⟨rd, rfl⟩, rfl⟩, fun rd =>
    ⟨oneRegisterWord_toNat 0x45 rd, fun s h => ⟨fun hfew => ?_, fun hmany hden hrange => ?_,
      fun hmany hden hnonneg hlt => ?_⟩⟩⟩
  · exact raisesCode_of_map (k := .estUnderdetermined) rfl (h.rate_underdetermined hfew)
  · exact raisesCode_of_map (k := .resultRange) rfl ((h.rate_eq_fit64 hmany hden).trans (fit64_outside hrange))
  · exact exists_writesReg_of_map (value := fun w => w) rfl rfl
      ((h.rate_eq_fit64 hmany hden).trans (fit64_inside hnonneg hlt))

/-- Settles O39: the faults of the rate come first (`frameToTime_of_rate_error`); then the time is exact and
checked for its range (`frameToTime_eq_fit64`). -/
theorem frameQueryExtrapolatesFromNewest : Obligations.FrameQueryExtrapolatesFromNewest := by
  refine ⟨otherWordsIllegal_twoRegister fun _ _ _ _ _ => rfl, fun rd ra =>
    ⟨twoRegisterWord_toNat 0x46 rd ra, fun s h => ?_⟩⟩
  intro w
  refine ⟨fun hfew => ?_, fun hmany hden hrange => ?_, fun older a ha hmany hden hnonneg hlt => ?_⟩
  · exact raisesCode_of_map (k := .estUnderdetermined) rfl
      (frameToTime_of_rate_error _ (h.rate_underdetermined hfew))
  · exact raisesCode_of_map (k := .resultRange) rfl
      (frameToTime_of_rate_error _ ((h.rate_eq_fit64 hmany hden).trans (fit64_outside hrange)))
  · have hrate : s.rate = .ok (BitVec.ofInt 64 w) :=
      (h.rate_eq_fit64 hmany hden).trans (fit64_inside hnonneg hlt)
    have hw : ((BitVec.ofInt 64 w).toNat : ℤ) = w := ((fit64_ok ..).1 (fit64_inside hnonneg hlt)).2.2
    have htime := frameToTime_eq_fit64 (s.reg ra) hrate (newest_append ha)
    rw [hw] at htime
    exact ⟨fun hrange => raisesCode_of_map (k := .resultRange) rfl (htime.trans (fit64_outside hrange)),
      fun hnonneg hlt => exists_writesReg_of_map (value := fun time => time) rfl rfl
        (htime.trans (fit64_inside hnonneg hlt))⟩

/-- Settles O41: on the line `num` is to `den` as `p` to `q` (`spread_collinear`), so the rate of `ESTRATE`
(`rateEstimateIsLeastSquaresSlope`) is that floor. -/
theorem collinearAnchorsGiveTheirSlope : Obligations.CollinearAnchorsGiveTheirSlope := by
  intro rd s p q c h hp hq hline hframes hlt
  have hden : fifoDen s.anchors ≠ 0 := fun hzero => by
    obtain ⟨a, ha, b, hb, hne⟩ := hframes
    exact hne ((fifoDen_eq_zero_iff _).1 hzero a ha b hb)
  have hmany : 2 ≤ s.ancn := by
    by_contra hfew
    exact hden (fifoDen_eq_zero_of_ancn_le (by omega))
  have hslope : q * fifoNum s.anchors = p * fifoDen s.anchors := spread_collinear hline
  have hrate : fifoRate s.cfg.xprec s.anchors = ⌊((s.cfg.xprec * p : ℤ) : ℚ) / q⌋ := by
    rw [fifoRate]
    congr 1
    rw [div_eq_div_iff (by exact_mod_cast hden) (by exact_mod_cast hq.ne')]
    norm_cast
    linear_combination (s.cfg.xprec : ℤ) * hslope
  have hnonneg : 0 ≤ ⌊((s.cfg.xprec * p : ℤ) : ℚ) / q⌋ := by
    rw [floor_div_eq_fdiv _ hq.le]
    exact Int.fdiv_nonneg (by positivity) hq.le
  rw [← hrate] at hlt hnonneg ⊢
  obtain ⟨-, -, hcompletes⟩ := (rateEstimateIsLeastSquaresSlope.2 rd).2 s h
  exact hcompletes hmany hden hnonneg hlt

/-! ## What the estimates depend on -/

theorem fifoDen_perm {l l' : List Anchor} (h : l.Perm l') : fifoDen l = fifoDen l' := spread_perm h

theorem fifoRate_perm {l l' : List Anchor} (xprec : Nat) (h : l.Perm l') :
    fifoRate xprec l = fifoRate xprec l' := by
  rw [fifoRate, fifoRate, fifoDen_perm h, fifoNum_eq_spread, fifoNum_eq_spread, spread_perm h]

theorem rate_perm {s s' : State} (h : Inv s) (h' : Inv s') (hcfg : s.cfg = s'.cfg)
    (hperm : s.anchors.Perm s'.anchors) : s.rate = s'.rate := by
  have hlen : s.ancn = s'.ancn := hperm.length_eq
  rw [State.rate, State.rate, h.den_eq, h'.den_eq, h.slope_eq, h'.slope_eq, hlen, fifoDen_perm hperm,
    fifoRate_perm _ hperm, hcfg]

theorem frameToTime_congr {s s' : State} (f : Word64) (hrate : s.rate = s'.rate)
    (hnewest : s.newest = s'.newest) (hcfg : s.cfg = s'.cfg) : s.frameToTime f = s'.frameToTime f := by
  rw [State.frameToTime, State.frameToTime, hrate, hnewest, hcfg]

/-- Two states that agree in the registers and `STATUS`, and for which a rule ends alike, agree after it. -/
theorem exec_agrees {i : Instr} {s s' : State} {r : Except Cause Word64}
    (hrule : commandRule s i = r.map fun w => (s, w)) (hrule' : commandRule s' i = r.map fun w => (s', w))
    (hregs : s.regs = s'.regs) (hstatus : s.status = s'.status) :
    ∃ t t', exec i s = .next t ∧ exec i s' = .next t' ∧ t.regs = t'.regs ∧ t.status = t'.status := by
  cases r with
  | error k =>
    exact ⟨_, _, (exec_next ..).2 (.inr ⟨k, hrule, rfl⟩), (exec_next ..).2 (.inr ⟨k, hrule', rfl⟩),
      hregs, rfl⟩
  | ok w =>
    refine ⟨_, _, (exec_next ..).2 (.inl ⟨s, w, hrule, rfl⟩),
      (exec_next ..).2 (.inl ⟨s', w, hrule', rfl⟩), ?_⟩
    cases destination i with
    | none => exact ⟨hregs, hstatus⟩
    | some rd => exact ⟨congrArg (fun regs => regs.set rd.toNat w rd.isLt) hregs, hstatus⟩

/-- Settles O42: the sums do not see the order of the anchors (`rate_perm`), and beside the rate the query reads
only the newest (`frameToTime_congr`). -/
theorem estimatesIgnoreAnchorOrder : Obligations.EstimatesIgnoreAnchorOrder := by
  intro rd ra s s' h h' hcfg hstatus hregs hperm
  have hrate := rate_perm h h' hcfg hperm
  have hra : s.reg ra = s'.reg ra := by rw [State.reg, State.reg, hregs]
  obtain ⟨t, t', ht, ht', hregs', hstatus'⟩ := exec_agrees (i := .estrate rd) (r := s.rate) rfl
    (by rw [hrate]; rfl) hregs hstatus
  refine ⟨t, t', ht, ht', hregs', hstatus', fun hnewest => ?_⟩
  have htime := frameToTime_congr (s.reg ra) hrate hnewest hcfg
  exact exec_agrees (i := .estf2t rd ra) (r := s.frameToTime (s.reg ra)) rfl
    (by rw [htime, hra]; rfl) hregs hstatus

/-- An `ESTF2T` that leaves no fault did not raise, so it wrote the time of its rule. -/
theorem estf2t_completed {rd ra : Reg} {s t : State} (h : exec (.estf2t rd ra) s = .next t)
    (ht : t.faulted = false) : s.frameToTime (s.reg ra) = .ok (t.reg rd) := by
  rcases (exec_next ..).1 h with ⟨u, v, hrule, rfl⟩ | ⟨k, -, rfl⟩
  · obtain ⟨time, htime, ⟨⟩⟩ := (except_map_eq_ok ..).1 hrule
    exact htime.trans (congrArg Except.ok (setReg_reg_same ..).symm)
  · simp at ht

theorem queryTime_mono (a : Anchor) (w : Word64) (xprec : Nat) {f f' : Word64} (h : f.toNat ≤ f'.toNat) :
    queryTime a w f xprec ≤ queryTime a w f' xprec := by
  rw [queryTime_eq, queryTime_eq, fifoTime, fifoTime]
  gcongr

/-- Settles O43: both queries read the same rate and the same newest anchor, and the floor is monotone
(`queryTime_mono`). -/
theorem frameQueryIsMonotone : Obligations.FrameQueryIsMonotone := by
  intro rd ra s f t u _ hle ht htok hu huok
  obtain ⟨w, a, hrate, ha, hfit⟩ := (frameToTime_ok ..).1 (estf2t_completed ht htok)
  obtain ⟨w', a', hrate', ha', hfit'⟩ := (frameToTime_ok ..).1 (estf2t_completed hu huok)
  obtain rfl : w = w' := Except.ok.inj (hrate.symm.trans hrate')
  obtain rfl : a = a' := Option.some.inj (ha.symm.trans ha')
  rw [setReg_reg_same] at hfit'
  obtain ⟨-, -, htime⟩ := (fit64_ok ..).1 hfit
  obtain ⟨-, -, htime'⟩ := (fit64_ok ..).1 hfit'
  have hmono := queryTime_mono a w s.cfg.xprec hle
  zify
  rw [htime, htime']
  exact hmono

/-! ## Clearing and reading the FIFO -/

/-- A state that takes all but unit EST from `s`. -/
theorem sameOutsideAnchors {s t : State}
    (h : t = { s with
      anchors := t.anchors, anchead := t.anchead, sx := t.sx, sy := t.sy, sxx := t.sxx, sxy := t.sxy }) :
    SameFilter s t ∧ SameRegs s t ∧ SameFault s t ∧ SameMem s t ∧ SameHost s t := by
  rw [h]
  exact ⟨⟨rfl, rfl, rfl, rfl, rfl, rfl, rfl⟩, fun _ => rfl, ⟨rfl, rfl⟩, fun _ => rfl,
    ⟨rfl, rfl, rfl⟩⟩

/-- Settles O34: the decoder reads one command at this opcode, and only the state of unit EST is written. -/
theorem anchorClearEmptiesFifo : Obligations.AnchorClearEmptiesFifo :=
  ⟨otherWordsIllegal_of_row fun _ _ _ _ _ => ⟨_, _, rfl, rfl⟩, rfl, fun _ =>
    ⟨_, rfl, rfl, rfl, rfl, rfl, rfl, rfl, sameOutsideAnchors rfl⟩⟩

/-- Settles O36: the count is the value of the one register write. -/
theorem anchorCountIsRead : Obligations.AnchorCountIsRead :=
  ⟨otherWordsIllegal_of_row fun rd _ _ _ _ => ⟨_, _, ⟨rd, rfl⟩, rfl⟩, fun rd =>
    ⟨oneRegisterWord_toNat 0x42 rd, fun s => ⟨_, rfl, setReg_writesReg s rd _⟩⟩⟩

theorem reference_of_empty {s : State} (h : s.anchors = []) : s.reference = .error .estUnderdetermined := by
  rw [State.reference, State.newest, h]
  rfl

/-- Settles O37: both commands end as `State.reference` does, which is the newest anchor if there is one. -/
theorem referenceAnchorIsNewest : Obligations.ReferenceAnchorIsNewest := by
  refine ⟨otherWordsIllegal_of_row fun rd _ _ _ _ => ⟨_, _, ⟨rd, rfl⟩, rfl⟩,
    otherWordsIllegal_of_row fun rd _ _ _ _ => ⟨_, _, ⟨rd, rfl⟩, rfl⟩, fun rd =>
    ⟨oneRegisterWord_toNat 0x43 rd, oneRegisterWord_toNat 0x44 rd, fun s =>
      ⟨fun hempty => ?_, fun older a ha => ?_⟩⟩⟩
  · have hnone := reference_of_empty hempty
    exact ⟨raisesCode_of_map (k := .estUnderdetermined) rfl hnone,
      raisesCode_of_map (k := .estUnderdetermined) rfl hnone⟩
  · have hnewest := (reference_ok ..).2 (newest_append ha)
    exact ⟨exists_writesReg_of_map (value := Anchor.frame) rfl rfl hnewest,
      exists_writesReg_of_map (value := Anchor.time) rfl rfl hnewest⟩

/-! ## Adding an anchor -/

theorem addAnchor_sameOutsideAnchors (s : State) (a : Anchor) :
    SameFilter s (s.addAnchor a) ∧ SameRegs s (s.addAnchor a) ∧ SameFault s (s.addAnchor a) ∧
      SameMem s (s.addAnchor a) ∧ SameHost s (s.addAnchor a) := by
  refine sameOutsideAnchors ?_
  unfold State.addAnchor State.evictOldest
  split
  · split <;> rfl
  · rfl

theorem addAnchor_anchors_room {s : State} (a : Anchor) (hroom : s.ancn < s.cfg.aMax) :
    (s.addAnchor a).anchors = s.anchors ++ [a] := by
  rw [addAnchor_anchors, if_neg hroom.ne]

theorem addAnchor_anchors_full {s : State} {o : Anchor} {rest : List Anchor} (a : Anchor)
    (hfull : s.ancn = s.cfg.aMax) (hs : s.anchors = o :: rest) : (s.addAnchor a).anchors = rest ++ [a] := by
  rw [addAnchor_anchors, if_pos hfull, hs, List.tail_cons]

theorem addAnchor_anchead_room {s : State} (a : Anchor) (hroom : s.ancn < s.cfg.aMax) :
    (s.addAnchor a).anchead = s.anchead := by
  rw [State.addAnchor, if_neg hroom.ne, appendAnchor_anchead]

/-- An eviction moves `ANCHEAD` on. -/
theorem addAnchor_anchead_full {s : State} (a : Anchor) (hvalid : s.cfg.Valid) (hfull : s.ancn = s.cfg.aMax) :
    (s.addAnchor a).anchead.toNat = (s.anchead.toNat + 1) % s.cfg.aMax := by
  obtain ⟨-, -, hmin, hmax⟩ := hvalid
  have hlt : (s.anchead.toNat + 1) % s.cfg.aMax < s.cfg.aMax := Nat.mod_lt _ (by omega)
  rw [State.addAnchor, if_pos hfull, appendAnchor_anchead, State.evictOldest]
  split
  next hs =>
    rw [State.ancn, hs, List.length_nil] at hfull
    omega
  next => rw [BitVec.toNat_ofNat, Nat.mod_eq_of_lt (by omega)]

/-- With room, the terms of the new anchor join the sums. -/
theorem SumsMatch.joined {s t : State} {a : Anchor} (hs : SumsMatch s) (ht : SumsMatch t)
    (h : t.anchors = s.anchors ++ [a]) :
    t.sx.toNat = s.sx.toNat + a.frame.toNat ∧ t.sy.toNat = s.sy.toNat + a.time.toNat ∧
      t.sxx.toNat = s.sxx.toNat + a.frame.toNat * a.frame.toNat ∧
      t.sxy.toNat = s.sxy.toNat + a.frame.toNat * a.time.toNat := by
  simp only [ht.sx, ht.sy, ht.sxx, ht.sxy, h, anchorSum_append_singleton, hs.sx, hs.sy, hs.sxx, hs.sxy, and_self]

/-- At capacity, those of the oldest leave them. -/
theorem SumsMatch.replaced {s t : State} {o a : Anchor} {rest : List Anchor} (hs : SumsMatch s)
    (ht : SumsMatch t) (hold : s.anchors = o :: rest) (hnew : t.anchors = rest ++ [a]) :
    t.sx.toNat + o.frame.toNat = s.sx.toNat + a.frame.toNat ∧
      t.sy.toNat + o.time.toNat = s.sy.toNat + a.time.toNat ∧
      t.sxx.toNat + o.frame.toNat * o.frame.toNat = s.sxx.toNat + a.frame.toNat * a.frame.toNat ∧
      t.sxy.toNat + o.frame.toNat * o.time.toNat = s.sxy.toNat + a.frame.toNat * a.time.toNat := by
  simp only [ht.sx, ht.sy, ht.sxx, ht.sxy, hnew, anchorSum_append_singleton, hs.sx, hs.sy, hs.sxx, hs.sxy, hold,
    anchorSum_cons]
  omega

theorem getElem?_concat_eq_ite (l : List Anchor) (a : Anchor) (k : Nat) :
    (l ++ [a])[k]? = if k = l.length then some a else l[k]? := by
  split
  next h => rw [h, List.getElem?_concat_length]
  next h =>
    rcases Nat.lt_or_gt_of_ne h with hlt | hgt
    · exact List.getElem?_append_left hlt
    · rw [List.getElem?_eq_none hgt.le, List.getElem?_eq_none (by simpa using hgt)]

/-- The place in the FIFO of the anchor in slot `k`, for the head in slot `h` of `n` (spec 10_state R41). -/
theorem place_eq_ite {k h n : Nat} (hk : k < n) (hh : h < n) :
    (k + n - h) % n = if h ≤ k then k - h else k + n - h := by
  split
  · rw [show k + n - h = k - h + n by omega, Nat.add_mod_right, Nat.mod_eq_of_lt (by omega)]
  · exact Nat.mod_eq_of_lt (by omega)

theorem nextHead_eq_ite {h n : Nat} (hh : h < n) : (h + 1) % n = if h + 1 = n then 0 else h + 1 := by
  split
  next heq => rw [heq, Nat.mod_self]
  next hne => exact Nat.mod_eq_of_lt (by omega)

/-- When the head moves on from slot `h`, the anchor stored in `h` is the last. -/
theorem place_freed {h n : Nat} (hh : h < n) : (h + n - (h + 1) % n) % n = n - 1 := by
  rw [place_eq_ite hh (Nat.mod_lt _ (by omega)), nextHead_eq_ite hh]
  split_ifs <;> omega

/-- When the head moves on from slot `h`, the anchor in another slot is one place nearer to it. -/
theorem place_moved {k h n : Nat} (hk : k < n) (hh : h < n) (hne : k ≠ h) :
    (k + n - h) % n = (k + n - (h + 1) % n) % n + 1 := by
  rw [place_eq_ite hk (Nat.mod_lt _ (by omega)), place_eq_ite hk hh, nextHead_eq_ite hh]
  split_ifs <;> omega

/-- A FIFO with room starts in slot 0, so the new anchor takes the slot of its place. -/
theorem Inv.addAnchor_slot_room {s : State} (h : Inv s) (a : Anchor) (hroom : s.ancn < s.cfg.aMax) {k : Nat}
    (hk : k < s.cfg.aMax) :
    (s.addAnchor a).slot k = if k = (s.anchead.toNat + s.ancn) % s.cfg.aMax then some a else s.slot k := by
  have hhead := h.anchead_zero hroom
  rw [State.slot, State.slot, addAnchor_cfg, addAnchor_anchead_room a hroom, addAnchor_anchors_room a hroom,
    hhead, BitVec.toNat_zero, Nat.sub_zero, Nat.add_mod_right, Nat.mod_eq_of_lt hk, Nat.zero_add,
    Nat.mod_eq_of_lt hroom]
  exact getElem?_concat_eq_ite ..

/-- At capacity the new anchor takes the freed slot (`place_freed`), and every other anchor keeps its own
(`place_moved`). -/
theorem Inv.addAnchor_slot_full {s : State} (h : Inv s) (a : Anchor) (hfull : s.ancn = s.cfg.aMax) {k : Nat}
    (hk : k < s.cfg.aMax) :
    (s.addAnchor a).slot k = if k = (s.anchead.toNat + s.ancn) % s.cfg.aMax then some a else s.slot k := by
  have hhead := h.anchead_lt
  obtain ⟨o, rest, hs⟩ : ∃ o rest, s.anchors = o :: rest :=
    List.exists_cons_of_length_pos (by rw [← State.ancn]; omega)
  have hlen : rest.length = s.cfg.aMax - 1 := by
    rw [← hfull, State.ancn, hs, List.length_cons, Nat.add_sub_cancel]
  rw [State.slot, addAnchor_cfg, addAnchor_anchead_full a h.cfg_valid hfull, addAnchor_anchors_full a hfull hs,
    getElem?_concat_eq_ite, hlen, hfull, Nat.add_mod_right, Nat.mod_eq_of_lt hhead, State.slot, hs]
  by_cases hkh : k = s.anchead.toNat
  · rw [if_pos hkh, hkh, if_pos (place_freed hhead)]
  · have hplace := place_moved hk hhead hkh
    have hlt : (k + s.cfg.aMax - s.anchead.toNat) % s.cfg.aMax < s.cfg.aMax := Nat.mod_lt _ (by omega)
    rw [if_neg hkh, if_neg (by omega), hplace, List.getElem?_cons_succ]

/-- Settles O35: the sums are exact before and after, as the invariant is kept (`Inv.addAnchor`), so they differ by
the terms of the anchors alone; the slots by `Inv.addAnchor_slot_room` and `Inv.addAnchor_slot_full`. -/
theorem anchorAddUpdatesFifoAndSums : Obligations.AnchorAddUpdatesFifoAndSums := by
  refine ⟨otherWordsIllegal_of_row fun _ ra rb _ _ => ⟨_, _, ⟨ra, rb, rfl⟩, rfl⟩, fun ra rb =>
    ⟨twoSourceWord_toNat 0x41 ra rb, fun s h => ?_⟩⟩
  intro x y
  have hsums := (h.addAnchor ⟨s.reg ra, s.reg rb⟩).sumsMatch
  refine ⟨s.addAnchor ⟨s.reg ra, s.reg rb⟩, rfl, fun hroom => ?_, fun o rest hfull hs => ?_,
    fun k hk => ?_, addAnchor_sameOutsideAnchors ..⟩
  · have hanchors := addAnchor_anchors_room ⟨s.reg ra, s.reg rb⟩ hroom
    exact ⟨hanchors, addAnchor_anchead_room _ hroom, h.sumsMatch.joined hsums hanchors⟩
  · have hanchors := addAnchor_anchors_full ⟨s.reg ra, s.reg rb⟩ hfull hs
    exact ⟨hanchors, addAnchor_anchead_full _ h.cfg_valid hfull, h.sumsMatch.replaced hsums hs hanchors⟩
  · rcases h.ancn_le.lt_or_eq with hroom | hfull
    · exact h.addAnchor_slot_room _ hroom hk
    · exact h.addAnchor_slot_full _ hfull hk

/-! ## The last anchors of a run (spec 43_rate_estimator R226) -/

/-- The FIFO of an unfaulted block holds the last `A_MAX` anchors of the list; `ANCHEAD` counts the others. -/
structure HoldsLast (c : Config) (l : List Anchor) (s : State) : Prop where
  cfg : s.cfg = c
  unfaulted : s.faulted = false
  anchors : s.anchors = l.drop (l.length - c.aMax)
  anchead : s.anchead.toNat = (l.length - c.aMax) % c.aMax

theorem clearAnchors_holdsLast {s : State} (hs : s.faulted = false) : HoldsLast s.cfg [] s.clearAnchors where
  cfg := rfl
  unfaulted := hs
  anchors := List.drop_nil.symm
  anchead := by simp

theorem HoldsLast.addAnchor {c : Config} {l : List Anchor} {s : State} (h : HoldsLast c l s) (hc : c.Valid)
    (a : Anchor) : HoldsLast c (l ++ [a]) (s.addAnchor a) := by
  obtain ⟨rfl, hs, hanchors, hhead⟩ := h
  have hunfaulted : (s.addAnchor a).faulted = false := by rwa [State.faulted, addAnchor_status]
  have hancn : s.ancn = l.length - (l.length - s.cfg.aMax) := by rw [State.ancn, hanchors, List.length_drop]
  have hlen : (l ++ [a]).length = l.length + 1 := by simp
  rcases Nat.lt_or_ge l.length s.cfg.aMax with hshort | hlong
  · have hroom : s.ancn < s.cfg.aMax := by omega
    have hnone : l.length - s.cfg.aMax = 0 := by omega
    have hnone' : (l ++ [a]).length - s.cfg.aMax = 0 := by omega
    refine ⟨addAnchor_cfg s a, hunfaulted, ?_, ?_⟩
    · rw [addAnchor_anchors_room a hroom, hanchors, hnone, hnone', List.drop_zero, List.drop_zero]
    · rw [addAnchor_anchead_room a hroom, hhead, hnone, hnone']
  · have hfull : s.ancn = s.cfg.aMax := by omega
    have hone : (l ++ [a]).length - s.cfg.aMax = l.length - s.cfg.aMax + 1 := by omega
    refine ⟨addAnchor_cfg s a, hunfaulted, ?_, ?_⟩
    · rw [addAnchor_anchors, if_pos hfull, hanchors, List.tail_drop, hone,
        List.drop_append_of_le_length (by omega)]
    · rw [addAnchor_anchead_full a hc hfull, hhead, hone, Nat.mod_add_mod]

/-- The transactions by which the host records these anchors. -/
def recording (l : List Anchor) : List Transaction :=
  l.flatMap fun a => [.regwr 1 a.frame, .regwr 2 a.time, .cmd (encode (.ancadd 1 2))]

/-- The state after the host has recorded an anchor. -/
def State.recorded (s : State) (a : Anchor) : State := ((s.setReg 1 a.frame).setReg 2 a.time).addAnchor a

theorem step_regwr {s : State} {r : Reg} {v : Word64} {rest : List Transaction}
    (hin : s.input = .regwr r v :: rest) : step s = .next ((s.took rest).setReg r v) :=
  step_cons s _ rest hin

theorem exec_ancadd_written (s : State) (a : Anchor) :
    exec (.ancadd 1 2) ((s.setReg 1 a.frame).setReg 2 a.time) = .next (s.recorded a) := by
  have hframe : ((s.setReg 1 a.frame).setReg 2 a.time).reg 1 = a.frame := by
    rw [setReg_reg_other _ _ _ _ (by decide), setReg_reg_same]
  rw [exec, execAncadd, hframe, setReg_reg_same]
  rfl

/-- A run whose next three transactions record an anchor. -/
theorem run_recorded {n : Nat} {a : Anchor} {s u : State} {later : List Transaction} (hs : s.faulted = false)
    (hin : s.input = .regwr 1 a.frame :: .regwr 2 a.time :: .cmd (encode (.ancadd 1 2)) :: later)
    (hrun : Host.Core.run Sys2Proof.core n ((s.took later).recorded a) = .next u) :
    Host.Core.run Sys2Proof.core (n + 3) s = .next u := by
  have htime := step_regwr (r := 2) (v := a.time)
    (s := (s.took (.regwr 2 a.time :: .cmd (encode (.ancadd 1 2)) :: later)).setReg 1 a.frame) rfl
  have hadd := step_encode (((s.took (.cmd (encode (.ancadd 1 2)) :: later)).setReg 1 a.frame).setReg 2 a.time)
    (.ancadd 1 2) later rfl hs
  exact run_succ (step_regwr hin)
    (run_succ htime (run_succ (hadd.trans (exec_ancadd_written (s.took later) a)) hrun))

theorem run_recording {c : Config} (hc : c.Valid) (l earlier : List Anchor) (s : State)
    (rest : List Transaction) (h : HoldsLast c earlier s) (hin : s.input = recording l ++ rest) :
    ∃ t, Host.Core.run Sys2Proof.core (3 * l.length) s = .next t ∧ t.input = rest ∧
      HoldsLast c (earlier ++ l) t := by
  induction l generalizing s earlier with
  | nil => exact ⟨s, rfl, hin, by rwa [List.append_nil]⟩
  | cons a l ih =>
    have hwritten : HoldsLast c earlier (((s.took (recording l ++ rest)).setReg 1 a.frame).setReg 2 a.time) :=
      ⟨h.cfg, h.unfaulted, h.anchors, h.anchead⟩
    obtain ⟨t, hrun, hrest, ht⟩ := ih (earlier ++ [a]) _ (hwritten.addAnchor hc a) (addAnchor_input ..)
    rw [List.append_assoc, List.singleton_append] at ht
    exact ⟨t, run_recorded h.unfaulted hin hrun, hrest, ht⟩

/-- Settles O44, by induction on the anchors (`run_recording`): each one recorded keeps `HoldsLast`, which holds of
no anchors after `ANCLR`. -/
theorem fifoKeepsTheLastAnchors : Obligations.FifoKeepsTheLastAnchors := by
  intro l s rest hvalid hs hin
  have hclear := clearAnchors_holdsLast (s := s.took (recording l ++ rest)) hs
  obtain ⟨t, hrun, hrest, ht⟩ := run_recording hvalid l [] _ rest hclear rfl
  refine ⟨t, ?_, hrest, ht.anchors, ht.anchead⟩
  rw [Nat.add_comm]
  exact run_succ (step_encode s .anclr _ hin hs) hrun

end Sys2Proof.Machine

/-! # System commands (spec 44_system)

`csrTable` lists the CSR map as values; the model agrees with it row by row (`csr_of_mem_csrTable`) and reads
nothing at a number outside it (`csr_undefined`). -/

namespace Sys2Proof

/-- The word of a command with a 16-bit immediate (format I, spec 30_encoding R92). -/
theorem immediateWord_toNat (op : BitVec 8) (rd rb rc : BitVec 4) (fn : BitVec 8) :
    (Fields.toWord ⟨op, rd, 0, rb, rc, fn⟩).toNat =
      op.toNat * 2 ^ 24 + rd.toNat * 2 ^ 20 + (rb ++ rc ++ fn).toNat := by
  simp only [Fields.toWord, toNat_append_eq, BitVec.ofNat_eq_ofNat, BitVec.toNat_zero]
  omega

theorem immFields_toWord_toNat (op : BitVec 8) (rd : Reg) (imm16 : BitVec 16) :
    (immFields op rd imm16).toWord.toNat = op.toNat * 2 ^ 24 + rd.toNat * 2 ^ 20 + imm16.toNat :=
  (immediateWord_toNat ..).trans
    (congrArg (fun c : BitVec 16 => _ + _ + c.toNat) (immFields_imm16 op rd imm16))

theorem csrrWord_toNat (rd : Reg) (csr : CsrNum) :
    (encode (.csrr rd csr)).toNat = 0x03000000 + rd.toNat * 2 ^ 20 + csr.toNat := by
  have hzero : (0 : Reg).toNat = 0 := rfl
  have hcsr := congrArg BitVec.toNat (csr_split csr)
  rw [toNat_append_eq] at hcsr
  rw [encode, encodeFields, immediateWord_toNat, toNat_append_eq, toNat_append_eq, hzero, Nat.zero_mul,
    Nat.zero_add, hcsr]
  rfl

theorem decode_nop_iff (w : CmdWord) : decode w = .ok .nop ↔ w = 0x00000000#32 :=
  ⟨encode_of_decode w .nop, fun h => h ▸ decode_encode .nop⟩

end Sys2Proof

namespace Sys2Proof.Machine

/-! ## The values of the constant loads -/

theorem shiftInsert_eq_ofNat (v : Word64) (imm16 : BitVec 16) :
    shiftInsert v imm16 = BitVec.ofNat 64 (v.toNat * 65536 + imm16.toNat) := by
  apply BitVec.eq_of_toNat_eq
  rw [shiftInsert_toNat, BitVec.toNat_ofNat]
  omega

/-! ## The CSR map (spec 10_state R26 to R43) -/

/-- A CSR of at most 64 bits reads zero-extended (spec 10_state R26). -/
theorem zeroExtended_eq_ofNat {n : Nat} (x : BitVec n) : x.setWidth 64 = BitVec.ofNat 64 x.toNat :=
  (BitVec.ofNat_toNat 64 x).symm

theorem lowWord_eq_ofNat {n : Nat} (x : BitVec n) :
    x.extractLsb' 0 64 = BitVec.ofNat 64 (x.toNat % 2 ^ 64) := by
  apply BitVec.eq_of_toNat_eq
  rw [BitVec.extractLsb'_toNat, Nat.shiftRight_zero, BitVec.toNat_ofNat, Nat.mod_mod]

theorem middleWord_eq_ofNat {n : Nat} (x : BitVec n) :
    x.extractLsb' 64 64 = BitVec.ofNat 64 (x.toNat / 2 ^ 64 % 2 ^ 64) := by
  apply BitVec.eq_of_toNat_eq
  rw [BitVec.extractLsb'_toNat, Nat.shiftRight_eq_div_pow, BitVec.toNat_ofNat, Nat.mod_mod]

/-- The twelve bits left above the whole words of a sum. -/
theorem topBits_eq_ofNat {k : Nat} (x : BitVec (k + 12)) :
    (x.extractLsb' k 12).setWidth 64 = BitVec.ofNat 64 (x.toNat / 2 ^ k) := by
  have hlt : x.toNat / 2 ^ k < 2 ^ 12 := Nat.div_lt_of_lt_mul (Nat.pow_add 2 k 12 ▸ x.isLt)
  rw [zeroExtended_eq_ofNat, BitVec.extractLsb'_toNat, Nat.shiftRight_eq_div_pow, Nat.mod_eq_of_lt hlt]

/-- The numbers `0x040 + k` read the data slots (spec 10_state R35). -/
theorem csr_data (s : State) (k : Fin 33) : s.csr (BitVec.ofNat 12 (0x040 + k.val)) = some s.firdata[k] := by
  have hn : (BitVec.ofNat 12 (0x040 + k.val)).toNat = 0x040 + k.val := by
    rw [BitVec.toNat_ofNat]; omega
  have hdata : 0x040 ≤ 0x040 + k.val ∧ 0x040 + k.val ≤ 0x060 := by omega
  simp only [State.csr, hn, dif_pos hdata, Nat.add_sub_cancel_left]
  rfl

/-- The model reads every row of the table, as the table gives it. -/
theorem csr_of_mem_csrTable (s : State) :
    ∀ row ∈ csrTable s, s.csr (BitVec.ofNat 12 row.1) = some (BitVec.ofNat 64 row.2) := by
  have hzext {n : Nat} (x : BitVec n) := congrArg some (zeroExtended_eq_ofNat x)
  have hlow {n : Nat} (x : BitVec n) := congrArg some (lowWord_eq_ofNat x)
  have hmiddle {n : Nat} (x : BitVec n) := congrArg some (middleWord_eq_ofNat x)
  have htop (k : Nat) (x : BitVec (k + 12)) := congrArg some (topBits_eq_ofNat x)
  have hword (x : Word64) : some x = some (BitVec.ofNat 64 x.toNat) :=
    congrArg some (x.setWidth_eq.symm.trans (zeroExtended_eq_ofNat x))
  simp only [csrTable, List.forall_mem_append, List.forall_mem_cons, List.forall_mem_map]
  refine ⟨⟨⟨⟨?fields, ?sums⟩, ?parameters⟩, ?slots⟩, ?coefficients⟩
  case fields =>
    exact ⟨hzext s.status, hzext s.fcmd, hzext s.firctl, hzext s.firiter, hzext s.firwp, hword s.firnom,
      hword s.tsraw, hword s.tsfilt, rfl, hzext s.anchead, List.forall_mem_nil _⟩
  case sums =>
    exact ⟨hlow s.sx, htop 64 s.sx, hlow s.sy, htop 64 s.sy, hlow s.sxx, hmiddle s.sxx, htop 128 s.sxx,
      hlow s.sxy, hmiddle s.sxy, htop 128 s.sxy, List.forall_mem_nil _⟩
  case parameters => exact ⟨rfl, rfl, rfl, rfl, List.forall_mem_nil _⟩
  case slots => exact fun k _ => (csr_data s k).trans (hword s.firdata[k])
  case coefficients =>
    exact fun k _ => (csr_coefficient s k).trans (congrArg some (firCoef_eq_coefficientList k))

/-- The numbers of the table, in its order: those of the CSRs with a number of their own, then of the two
arrays. -/
def csrNumbers : List Nat :=
  List.range' 0x000 2 ++ List.range' 0x010 6 ++ List.range' 0x020 12 ++ List.range' 0x0F0 4 ++
    List.range' 0x040 33 ++ List.range' 0x080 33

theorem csrTable_numbers (s : State) : (csrTable s).map Prod.fst = csrNumbers := rfl

theorem mem_csrNumbers_iff (s : State) (n : Nat) : n ∈ csrNumbers ↔ ∃ v, (n, v) ∈ csrTable s := by
  simp [← csrTable_numbers s]

theorem csrDefined_iff_mem_csrNumbers (n : Nat) : csrDefined n = true ↔ n ∈ csrNumbers := by
  simp only [csrDefined, csrNumbers, Bool.or_eq_true, Bool.and_eq_true, decide_eq_true_eq, List.mem_append,
    List.mem_range'_1]
  omega

theorem scalarCsr_undefined (s : State) {n : Nat} (h : csrDefined n = false) : s.scalarCsr n = none := by
  unfold State.scalarCsr
  split
  case h_25 => rfl
  all_goals exact absurd h (by decide)

theorem csr_undefined (s : State) {c : CsrNum} (h : csrDefined c.toNat = false) : s.csr c = none := by
  have hscalar := scalarCsr_undefined s h
  simp only [csrDefined, Bool.or_eq_false_iff, Bool.and_eq_false_iff, decide_eq_false_iff_not] at h
  have hdata : ¬(0x040 ≤ c.toNat ∧ c.toNat ≤ 0x060) := by omega
  have hcoef : ¬(0x080 ≤ c.toNat ∧ c.toNat ≤ 0x0A0) := by omega
  rw [State.csr, dif_neg hdata, dif_neg hcoef, hscalar]

/-- `STATUS` reads 0 whenever a command executes (spec 10_state R27). -/
theorem Inv.csr_status {s : State} (h : Inv s) (hs : s.faulted = false) : s.csr 0x000 = some 0#64 :=
  congrArg (fun x : BitVec 16 => some (x.setWidth 64)) (h.no_fault hs).1

theorem exec_csrr {s : State} {c : CsrNum} {v : Word64} (rd : Reg) (h : s.csr c = some v) :
    exec (.csrr rd c) s = .next (s.setReg rd v) := by
  rw [exec, execCsrr, h]
  rfl

theorem csrr_raises_badCsr {s : State} {c : CsrNum} (rd : Reg) (h : s.csr c = none) :
    RaisesCode 10 (.csrr rd c) s :=
  raisesCode_of_commandRule (k := .badCsr) (by rw [commandRule, h])

/-! ## The statements -/

/-- Settles O5: the decoder reads `NOP` from its own word alone (`encode_of_decode`), and executing it is the
identity. -/
theorem nopChangesNothing : Obligations.NopChangesNothing :=
  ⟨decode_nop_iff, otherWordsIllegal_of_row fun _ _ _ _ _ => ⟨_, _, rfl, rfl⟩, fun _ => rfl⟩

/-- Settles O6: the constant is the value of the one register write, whatever the register held. -/
theorem loadImmediateWritesConstant : Obligations.LoadImmediateWritesConstant :=
  ⟨otherWordsIllegal_of_row fun rd _ _ _ _ => ⟨_, _, ⟨rd, _, rfl⟩, rfl⟩, fun rd imm16 =>
    ⟨immFields_toWord_toNat 0x01 rd imm16, fun _ => exists_writesReg rfl (zeroExtended_eq_ofNat imm16)⟩⟩

/-- Settles O7: the register written is the one shifted, and the shifted sum wraps (`shiftInsert_eq_ofNat`). -/
theorem shiftInsertWritesShiftedSum : Obligations.ShiftInsertWritesShiftedSum :=
  ⟨otherWordsIllegal_of_row fun rd _ _ _ _ => ⟨_, _, ⟨rd, _, rfl⟩, rfl⟩, fun rd imm16 =>
    ⟨immFields_toWord_toNat 0x02 rd imm16, fun s =>
      exists_writesReg rfl (shiftInsert_eq_ofNat (s.reg rd) imm16)⟩⟩

/-- Settles O9: the model's CSR map is the table (`csr_of_mem_csrTable`), whose numbers are the defined ones
(`csrDefined_iff_mem_csrNumbers`), and holds nothing elsewhere (`csr_undefined`). -/
theorem csrReadOrBadCsr : Obligations.CsrReadOrBadCsr :=
  ⟨otherWordsIllegal_of_row fun rd _ _ _ _ => ⟨_, _, ⟨rd, _, rfl⟩, rfl⟩, fun rd s =>
    ⟨csrrWord_toNat rd,
      fun _ _ hrow => exists_writesReg (exec_csrr rd (csr_of_mem_csrTable s _ hrow)) rfl,
      fun _ hundef => csrr_raises_badCsr rd (csr_undefined s hundef),
      fun n => (csrDefined_iff_mem_csrNumbers n).trans (mem_csrNumbers_iff s n),
      fun hinv hs => exists_writesReg (exec_csrr rd (hinv.csr_status hs)) rfl⟩⟩

end Sys2Proof.Machine

/-! # Host transactions and faults (spec 60_exceptions)

A command that leaves a faulted state has entered the fault (`exec_raises`); while faulted every transaction but
`RESET` keeps it (`transact_sameFault`). -/

namespace Sys2Proof.Machine

/-! ## A command that raises -/

/-- A command that raises a fault has a rule that gives the cause, and does nothing but enter the fault (spec
60_exceptions R262): a rule that completes keeps `STATUS`. -/
theorem exec_raises {i : Instr} {s t : State} (h : exec i s = .next t) (hs : s.faulted = false)
    (ht : t.faulted = true) : ∃ k, commandRule s i = .error k ∧ t = s.enterFault k (encode i) := by
  rcases (exec_next ..).1 h with ⟨u, v, hrule, rfl⟩ | hraise
  · obtain ⟨-, ⟨hstatus, -⟩, -⟩ := commandRule_keeps hrule
    rw [writeBack_faulted, State.faulted, hstatus] at ht
    exact absurd (hs.symm.trans ht) (by decide)
  · exact hraise

/-- Settles O56: the command has entered the fault (`exec_raises`), whose frame is `enterFault_raises`. -/
theorem faultEntryChangesNothingElse : Obligations.FaultEntryChangesNothingElse := by
  intro i s t h hs ht
  obtain ⟨k, -, rfl⟩ := exec_raises h hs ht
  obtain ⟨hlow, hhigh⟩ := causeCode_range k
  exact ⟨causeCode k, hlow, hhigh, enterFault_raises s k (encode i)⟩

/-- Settles O57: the recorded cause is the one the command's rule gives (`exec_raises`), and a rule raises only
those of its row (`commandRule_error`). -/
theorem commandRaisesOnlyItsCauses : Obligations.CommandRaisesOnlyItsCauses := by
  intro i s t h hs ht
  obtain ⟨k, hrule, rfl⟩ := exec_raises h hs ht
  rw [enterFault_cause]
  exact commandRule_error s i k hrule

/-- Settles O58: a word that decodes to a command is its encoding (`encode_of_decode`), which the next step runs
(`step_encode`). -/
theorem stepRunsTheDecodedCommand : Obligations.StepRunsTheDecodedCommand := by
  intro s w i rest hin hs hdec
  rw [encode_of_decode w i hdec] at hin
  exact step_encode s i rest hin hs

/-! ## The faulted state -/

/-- While faulted a command word is discarded undecoded (spec 60_exceptions R264). -/
theorem runCommand_of_faulted {s : State} (w : CmdWord) (hs : s.faulted = true) :
    runCommand w s = .next s := if_pos hs

theorem hostWrite_sameFault (s : State) (a : Nat) (bs : List Byte) : SameFault s (s.hostWrite a bs) := by
  unfold State.hostWrite
  split <;> exact ⟨rfl, rfl⟩

theorem SameFault.faulted {s t : State} (h : SameFault s t) : t.faulted = s.faulted :=
  congrArg (·.getLsbD 0) h.status

theorem applyReset_faulted (s : State) : s.applyReset.faulted = false := by
  rw [State.faulted, applyReset_status, BitVec.getLsbD_zero]

/-- Every transaction but `RESET` leaves the recorded fault as it is (spec 60_exceptions R264, R270). -/
theorem transact_sameFault {s : State} {x : Transaction} (hs : s.faulted = true) (hx : x ≠ .reset) :
    ∃ t, transact x s = .next t ∧ SameFault s t := by
  cases x with
  | reset => exact absurd rfl hx
  | cmd w => exact ⟨s, runCommand_of_faulted w hs, rfl, rfl⟩
  | memwr a bs => exact ⟨_, rfl, hostWrite_sameFault s a bs⟩
  | regwr | regrd | memrd | csrrd => exact ⟨_, rfl, rfl, rfl⟩

/-- Settles O59: a step is its transaction (`step_cons`), and each leaves the fault as it is but `RESET`
(`transact_sameFault`), which clears `STATUS`. -/
theorem faultedStateIsLeftOnlyByReset : Obligations.FaultedStateIsLeftOnlyByReset := by
  intro s x rest hs hin
  have hstep : step s = transact x (s.took rest) := step_cons s x rest hin
  have htook : (s.took rest).faulted = true := hs
  refine ⟨?discarded, ?kept, ?cleared⟩
  case discarded =>
    rintro w rfl
    exact hstep.trans (runCommand_of_faulted w htook)
  case kept =>
    intro hx
    obtain ⟨t, ht, hsame⟩ := transact_sameFault htook hx
    exact ⟨t, hstep.trans ht, { hsame with }, hsame.faulted.trans htook⟩
  case cleared =>
    rintro rfl
    exact ⟨_, hstep, applyReset_faulted (s.took rest)⟩

/-! ## What the host reads and writes (spec 60_exceptions R270) -/

theorem hostWrite_inside {s : State} {a : Nat} {bs : List Byte} (h : a + bs.length ≤ s.cfg.memSize) :
    s.hostWrite a bs = s.storeBytes a bs := if_pos ((inMem_iff ..).2 h)

theorem hostWrite_outside {s : State} {a : Nat} {bs : List Byte} (h : s.cfg.memSize < a + bs.length) :
    s.hostWrite a bs = s := if_neg (mt (inMem_iff ..).1 h.not_ge)

theorem hostRead_inside {s : State} {a n : Nat} (h : a + n ≤ s.cfg.memSize) :
    s.hostRead a n = s.mem.readBytes a n := if_pos ((inMem_iff ..).2 h)

theorem hostRead_outside {s : State} {a n : Nat} (h : s.cfg.memSize < a + n) :
    s.hostRead a n = List.replicate n 0#8 := if_neg (mt (inMem_iff ..).1 h.not_ge)

section

variable {s : State} {rest : List Transaction}

theorem step_memwr {a : Nat} {bs : List Byte} (hin : s.input = .memwr a bs :: rest) :
    step s = .next ((s.took rest).hostWrite a bs) :=
  step_cons s _ rest hin

theorem step_regrd {r : Reg} (hin : s.input = .regrd r :: rest) :
    step s = .next ((s.took rest).reply (.reg (s.reg r))) :=
  step_cons s _ rest hin

theorem step_memrd {a n : Nat} (hin : s.input = .memrd a n :: rest) :
    step s = .next ((s.took rest).reply (.mem (s.hostRead a n))) :=
  step_cons s _ rest hin

theorem step_csrrd {c : CsrNum} (hin : s.input = .csrrd c :: rest) :
    step s = .next ((s.took rest).reply (.csr ((s.csr c).getD 0#64))) :=
  step_cons s _ rest hin

end

/-- Settles O45: the write is the register write of a command (`setReg_writesReg`), and the read a reply. -/
theorem hostAccessesRegisters : Obligations.HostAccessesRegisters :=
  fun s rest i =>
    ⟨fun v hin => ⟨_, step_regwr hin, setReg_writesReg (s.took rest) i v⟩, fun hin => step_regrd hin⟩

/-- Settles O46: inside `MEM` the transactions write and read the bytes, outside they do nothing and return
zeros (`hostWrite_inside` to `hostRead_outside`). -/
theorem hostAccessesMemory : Obligations.HostAccessesMemory := by
  intro s rest a hm
  refine ⟨?written, ?ignored, ?read, ?zeros⟩
  case written =>
    intro bs hin inside
    have hwrite := hostWrite_inside (s := s.took rest) inside
    obtain ⟨hmem, hregs, hfault, hfilter, hanchors, hhost⟩ := storeBytes_frame (s.took rest) a bs
    exact ⟨_, hwrite ▸ step_memwr hin, fun k => read_writeBytes_inside s.mem a k bs hm k.isLt,
      hmem, hregs, { hfault with }, { hfilter with }, { hanchors with }, hhost⟩
  case ignored =>
    intro bs hin outside
    rw [step_memwr hin, hostWrite_outside (s := s.took rest) outside]
  case read =>
    intro n hin inside
    refine ⟨s.mem.readBytes a n, readBytes_length .., fun k => readBytes_getElem s.mem a n k k.isLt, ?_⟩
    rw [step_memrd hin, hostRead_inside inside]
    rfl
  case zeros =>
    intro n hin outside
    rw [step_memrd hin, hostRead_outside outside]
    rfl

/-- Settles O47: the host reads the model's CSR map, which is the table (`csr_of_mem_csrTable`) and holds nothing
elsewhere (`csr_undefined`). -/
theorem hostReadsControlRegisters : Obligations.HostReadsControlRegisters := by
  intro s rest c hin
  constructor
  · intro v hrow
    have hread := csr_of_mem_csrTable s _ hrow
    rw [BitVec.ofNat_toNat, BitVec.setWidth_eq] at hread
    rw [step_csrrd hin, hread]
    rfl
  · intro hundef
    rw [step_csrrd hin, csr_undefined s hundef]
    rfl

end Sys2Proof.Machine

/-! # Reset, and the outcome of every word (spec 70_reset_and_hazards)

An unfaulted state answers every word with one of two ends (`UnfaultedEnd`): a word that spells no command and a
command whose rule gives a cause both enter the fault, and a command whose rule completes keeps `STATUS`. -/

namespace Sys2Proof.Machine

/-! ## The transaction `RESET` (spec 70_reset_and_hazards R300) -/

section

variable (s : State)

@[simp] theorem applyReset_reg (r : Reg) : s.applyReset.reg r = 0#64 := resetWith_reg s.cfg s.mem r

@[simp] theorem applyReset_initArmed : s.applyReset.initArmed = true := resetWith_initArmed s.cfg s.mem

@[simp] theorem applyReset_nomValid : s.applyReset.nomValid = false := resetWith_nomValid s.cfg s.mem

@[simp] theorem applyReset_ancn : s.applyReset.ancn = 0 := rfl

theorem applyReset_sameHost : SameHost s s.applyReset :=
  ⟨applyReset_cfg s, applyReset_input s, applyReset_output s⟩

end

/-- Settles O48: the step is `State.applyReset` (`step_cons`), whose field lemmas give every value. -/
theorem resetRestoresEveryRegister : Obligations.ResetRestoresEveryRegister := by
  intro s rest hin
  have hmem : SameMem s (s.took rest).applyReset := fun _ => rfl
  refine ⟨(s.took rest).applyReset, step_cons s .reset rest hin, applyReset_reg _, ?_⟩
  simp [hmem, applyReset_sameHost]

/-! ## The ends of a command word (spec 70_reset_and_hazards R307) -/

/-- How an unfaulted state ends a word: it leaves an unfaulted state, or raises one of the ten causes and changes
nothing else. -/
def UnfaultedEnd (w : CmdWord) (s t : State) : Prop :=
  t.faulted = false ∨ ∃ code : BitVec 8, 1 ≤ code.toNat ∧ code.toNat ≤ 10 ∧ Raises code w s t

theorem enterFault_unfaultedEnd (s : State) (k : Cause) (w : CmdWord) :
    UnfaultedEnd w s (s.enterFault k w) := by
  obtain ⟨hlow, hhigh⟩ := causeCode_range k
  exact .inr ⟨causeCode k, hlow, hhigh, enterFault_raises s k w⟩

/-- No arm of `exec` stops. -/
theorem exec_answers (i : Instr) (s : State) : ∃ t, exec i s = .next t := by
  cases hrule : commandRule s i with
  | ok p => exact ⟨_, (exec_next ..).2 (.inl ⟨p.1, p.2, hrule, rfl⟩)⟩
  | error k => exact ⟨_, (exec_next ..).2 (.inr ⟨k, hrule, rfl⟩)⟩

theorem exec_unfaultedEnd {i : Instr} {s t : State} (h : exec i s = .next t) (hs : s.faulted = false) :
    UnfaultedEnd (encode i) s t := by
  cases ht : t.faulted with
  | false => exact .inl ht
  | true => exact .inr (faultEntryChangesNothingElse i s t h hs ht)

theorem runCommand_unfaultedEnd (w : CmdWord) {s : State} (hs : s.faulted = false) :
    ∃ t, runCommand w s = .next t ∧ UnfaultedEnd w s t := by
  rcases runCommand_cases w s with ⟨hfaulted, -⟩ | ⟨-, -, hillegal⟩ | ⟨-, i, hdec, hexec⟩
  · exact absurd (hs.symm.trans hfaulted) (by decide)
  · exact ⟨_, hillegal, enterFault_unfaultedEnd s .illegalCommand w⟩
  · obtain ⟨t, ht⟩ := exec_answers i s
    rw [hexec, encode_of_decode w i hdec]
    exact ⟨t, ht, exec_unfaultedEnd ht hs⟩

/-! ## No step stops -/

theorem runCommand_answers (w : CmdWord) (s : State) : ∃ t, runCommand w s = .next t := by
  cases hs : s.faulted with
  | true => exact ⟨s, runCommand_of_faulted w hs⟩
  | false => exact (runCommand_unfaultedEnd w hs).imp fun _ h => h.1

theorem transact_answers (x : Transaction) (s : State) : ∃ t, transact x s = .next t := by
  cases x with
  | cmd w => exact runCommand_answers w s
  | reset | regwr | regrd | memwr | memrd | csrrd => exact ⟨_, rfl⟩

theorem step_answers (s : State) : ∃ t, step s = .next t := by
  cases hin : s.input with
  | nil => exact ⟨s, step_nil s hin⟩
  | cons x rest =>
    rw [step_cons s x rest hin]
    exact transact_answers x _

/-- Settles O52: every step answers (`step_answers`); a word's step is `runCommand` (`step_command`), which
discards the word while faulted and otherwise has one of the two ends (`runCommand_unfaultedEnd`). -/
theorem everyWordHasOneOutcome : Obligations.EveryWordHasOneOutcome := by
  refine ⟨step_answers, fun s w rest hin => ?_⟩
  rw [step_command s w rest hin]
  exact ⟨fun hs => runCommand_of_faulted (s := s.took rest) w hs,
    fun hs => runCommand_unfaultedEnd (s := s.took rest) w hs⟩

end Sys2Proof.Machine

/-! # The words the spec writes out -/

namespace Sys2Proof

/-- A word spells a command exactly when it is that command's encoding (spec 30_encoding R91, R93). -/
theorem decode_eq_ok_iff (w : CmdWord) (i : Instr) : decode w = .ok i ↔ w = encode i :=
  ⟨encode_of_decode w i, fun h => h ▸ decode_encode i⟩

/-- Settles O4: each word is the encoding of the command the spec gives it (`decode_eq_ok_iff`), which is an
equation of two closed words. -/
theorem decodesWordsOfTheSpec : Obligations.DecodesWordsOfTheSpec := by
  simp only [Obligations.DecodesWordsOfTheSpec, decode_eq_ok_iff]
  decide

end Sys2Proof
